-- ==== Sys2Proof/Word.lean ====
section
/-! DEFINITION. The plain types of the Fiotra L24 model: bytes, positions, times and the sets that the
layouts of R184 write as bit masks. -/
namespace Sys2Proof

/-- One byte of exchange memory, of a packet or of a record. -/
abbrev Byte := BitVec 8

/-- A Y position, in ribbon steps (00_scope 5.1). The gantry position itself is a 48-bit count; every position
derived from it is signed (00_scope 5.4), so positions are exact integers. -/
abbrev Pos := Int

/-- A reading of the time base: microseconds, 48 bits (00_scope 5.2). -/
abbrev Micros := BitVec 48

/-- A Lane Receiver's number, 0 to 11. -/
abbrev LaneId := Fin 12

/-- A set of tracks; bit n stands for track n + 1 (R184). -/
abbrev TrackSet := BitVec 4

/-- A set of views; bit 0 TRN, bit 1 RFL, bit 2 SCT (R184). -/
abbrev ViewSet := BitVec 3

/-- A set of polarities; bit 0 dark, bit 1 bright (R184). -/
abbrev PolSet := BitVec 2

/-- A set of stretch causes; bit 0 LANE, 1 GAP, 2 WIDTH, 3 NO_GLASS, 4 SPILL (R184). -/
abbrev CauseSet := BitVec 5

/-- A set of grade causes; bit 0 POINTS, 1 COUNTS, 2 ABSOLUTE, 3 BLIND, 4 WIDTH (R184). -/
abbrev GradeCauseSet := BitVec 5

end Sys2Proof
end

