-- ==== Sys2Proof/Syntax.lean ====
section
/-! DEFINITION. The commands the L24 takes: one constructor for each row of spec/opcode_table.json. The table gives
no row any bits, so a command's operands are the values its rules speak of. -/
namespace Sys2Proof

/-- The two registers that ignore writes (R181). -/
inductive ReadOnlyRegister where
  | partId
  | runstat
  deriving DecidableEq, Repr

/-- One constructor per row of the table of operations and events. The first six are writes to the registers, the
others are events on the part's pins and links or events the part itself comes to. A command at which the part reads
the exchange memory carries `written`: the bytes the computer has stored there since the last such command, which the
command finds in place (R168; log entry 2). -/
inductive Instr where
  /-- POWER_ON (R183). -/
  | powerOn
  /-- RESET: a write of `value` to CTRL with bit 0 set (R182). -/
  | reset (value : BitVec 32) (written : List Host.Cell)
  /-- PROMPT: a write of `value` to CTRL with bit 1 set (R169, R182). -/
  | prompt (value : BitVec 32) (written : List Host.Cell)
  /-- ATTN_WRITE (R179). -/
  | attnWrite (value : BitVec 32)
  /-- ATTN_EN_WRITE (R180). -/
  | attnEnWrite (value : BitVec 32)
  /-- IGNORED_REGISTER_WRITE (R181). -/
  | ignoredRegisterWrite (register : ReadOnlyRegister) (value : BitVec 32)
  /-- FORWARD_STEP: a forward GWE step (R1). -/
  | forwardStep
  /-- REVERSE_STEP: a reverse GWE step (R1). -/
  | reverseStep
  /-- RLE_PULSE: a roller encoder pulse (R7). -/
  | rlePulse
  /-- GATE_PHASE_END (R5). -/
  | gatePhaseEnd
  /-- STALL (R6). -/
  | stall
  /-- SLIP_PHASE_END (R9). -/
  | slipPhaseEnd
  /-- SLIP_OVER: the RLE pulse that overflows the gate counter (R7). -/
  | slipOver
  /-- LINE_PACKET: the bytes of one packet arrive whole at a lane (R22). -/
  | linePacket (lane : LaneId) (bytes : List Byte)
  /-- PULSE_END of the cut strobe (R134). -/
  | pulseEnd
  /-- GAP_END of the cut strobe (R134). -/
  | gapEnd
  /-- NOZZLE_PULSE_END of nozzle `nozzle` + 1 (R139). -/
  | nozzlePulseEnd (nozzle : Fin 4)
  /-- POLL_TIMER_EXPIRY (R169). -/
  | pollTimerExpiry (written : List Host.Cell)
  /-- ENTER_HALTED (R155). -/
  | enterHalted (written : List Host.Cell)
  /-- PLAN_STEP (R108). -/
  | planStep (written : List Host.Cell)
  /-- SEGMENT_REPORT (R124). -/
  | segmentReport
  /-- SNAPSHOT_WRITE (R167). -/
  | snapshotWrite
  deriving DecidableEq, Repr

end Sys2Proof
end

