-- ==== Sys2Proof/Decode.lean ====
section
/-! DEFINITION. The command a table word spells. spec/opcode_table.json gives no row any bits ("n_rows_with_fixed": 0
in 98_reader.md), so no word spells a command. -/
namespace Sys2Proof

/-- The command that `nbits` bits of the table's numbering spell: none, since the table gives bits to no row. -/
def decodeTableWord (_nbits _w : Nat) : Option Instr := none

end Sys2Proof
end

