-- ==== Sys2Proof/Config.lean ====
section
/-! DEFINITION. What one L24 fixes: the sizes of its collections, its register codes, the places of the fixed
blocks of exchange memory, and the two values the manual leaves open (memory after power-on, and where events come into a plan step). -/
namespace Sys2Proof.Config

/-- Free value: what a byte of exchange memory reads before anything has written it since the power-on numbered
`generation` (R168: "The contents of the exchange memory are undefined after power-on"). It has no body, so no
proof can rest on its value. Log entry 1. -/
opaque undefinedByte (generation : Nat) (address : Nat) : BitVec 8

/-- Free value: at the planner's turn numbered `turn`, whether another event comes between the plan step's grading
requests, and after how many more of them; none where the step goes on to its end (R109: "Events at other blocks may
come between them"). It has no body, so no proof can rest on its value. Log entry 23. -/
opaque planPause (turn : Nat) : Option Nat

/-- The exchange memory is 256 MiB (R168). -/
def windowSize : Nat := 0x10000000

/-- The Request Block lies at offset 0 (R168). -/
def requestBlock : Nat := 0

/-- The Mark Block lies at offset 4 KiB (R168). -/
def markBlock : Nat := 0x1000

/-- Each of the two fixed blocks is 4 KiB (R168). -/
def blockSize : Nat := 0x1000

/-- The end of the two fixed blocks, which no image and no journal may overlap (R145, R148). -/
def fixedEnd : Nat := 0x2000

/-- The line settings image is 256 bytes (11.4). -/
def settingsImageSize : Nat := 256

/-- The fixed layout of a product set image (R186). -/
def setImageMin : Nat := 848

/-- The greatest length of a product set image (R148, R186). -/
def setImageMax : Nat := 16384

/-- Record sizes of the journals (section 10.3). -/
def flawRecordSize : Nat := 64
def plateRecordSize : Nat := 256
def noticeRecordSize : Nat := 256

/-- Collections of fixed capacity. -/
def cutListCapacity : Nat := 32        -- R130
def segmentQueueCapacity : Nat := 24   -- R121
def flawMapCapacity : Nat := 2048      -- R60
def stretchCapacity : Nat := 32        -- R72
def markListCapacity : Nat := 64       -- R136
def blobCapacity : Nat := 64           -- section 3.3
def runCapacity : Nat := 32            -- R31
def edgePendingCapacity : Nat := 64    -- R14
def plateListCapacity : Nat := 32      -- R99

/-- The poll interval before any settings: 5 ms (R169). -/
def defaultPollMs : Nat := 5

/-- PART_ID: vendor code 0x5744, part code 0x24, revision code 0x03 (section 11.9). -/
def partId : BitVec 32 := 0x57442403#32

end Sys2Proof.Config
end

