-- ==== Sys2Proof/Machine/State.lean ====
section
/-! DEFINITION. The state of the Fiotra L24, block by block as 00_scope section 3 lists the blocks, and the machine
right after power-on. Positions and values that other state determines (the derived positions of R2, the leads of
R11, the trigger number of R4, the next-line positions of R26, the closed position of R68, the NO_GLASS tally level)
are functions of this state, not copies in it. -/
namespace Sys2Proof.Machine

/-- The L24 has no behaviour that stops it with a fault: every command of the table has an effect in every state. -/
inductive Fault where
  deriving DecidableEq, Repr

/-- Why a command has no meaning. -/
inductive Refusal where
  /-- An arm of `exec` that gives its command no meaning yet. None stands in this model. Safe. -/
  | notModelled (mnemonic : String)
  deriving DecidableEq, Repr

/-- One value for each of the three views of a line. -/
structure PerView (α : Type) where
  transmitted : α
  reflected : α
  scattered : α
  deriving DecidableEq, Repr, Inhabited

/-! ## Settings and product sets (chapter 8, layouts 11.4 and 11.5) -/

/-- A lane's geometry in the line settings (section 2.1). -/
structure LaneGeometry where
  fitted : Bool
  direction : Int
  pixels : Nat
  origin : Nat
  deriving DecidableEq, Repr, Inhabited

/-- Where the line settings place a journal. -/
structure JournalPlace where
  base : Nat
  capacity : Nat
  level : Nat
  deriving DecidableEq, Repr, Inhabited

/-- The line settings (section 8.1), as checked and clamped by R145. -/
structure LineSettings where
  lanes : Vector LaneGeometry 12
  driveLane : LaneId
  operatorLane : LaneId
  pitch : Nat
  tuneOnSettle : Bool
  gapTolerance : Nat
  settleLength : Nat
  staleDistance : Nat
  errorWindow : Nat
  errorThreshold : Nat
  recoverThreshold : Nat
  gainFloor : Nat
  gainCeiling : Nat
  gainStep : Nat
  dwell : Nat
  dwellTolerance : Nat
  bandLow : Nat
  bandHigh : Nat
  gateLength : Nat
  rleRatio : Nat
  slipLimit : Nat
  markerDistance : Nat
  cutterDistance : Nat
  commitDistance : Nat
  cutterDelay : Nat
  markerDelay : Nat
  strobeWidth : Nat
  strobeGap : Nat
  markerWidth : Nat
  pollInterval : Nat
  headMargin : Nat
  urgencyMargin : Nat
  culletMin : Nat
  culletMax : Nat
  clearance : Nat
  flawPlace : JournalPlace
  platePlace : JournalPlace
  noticePlace : JournalPlace
  deriving DecidableEq, Repr, Inhabited

/-- A track's cross interval [lo, hi). -/
structure Track where
  lo : Nat
  hi : Nat
  deriving DecidableEq, Repr, Inhabited

/-- A view's thresholds (R29). -/
structure Thresholds where
  dark : Nat
  bright : Nat
  deriving DecidableEq, Repr, Inhabited

/-- A lane's fields in a product set: its offsets and gain code. -/
structure LaneDetection where
  offsets : PerView Int
  gain : Nat
  deriving DecidableEq, Repr, Inhabited

/-- The polarity a class rule asks for (R59). -/
inductive RulePolarity where
  | any
  | dark
  | bright
  deriving DecidableEq, Repr, Inhabited

/-- A class rule (R59). -/
structure ClassRule where
  flawClass : Nat
  required : ViewSet
  forbidden : ViewSet
  polarity : RulePolarity
  sizeMin : Nat
  sizeMax : Nat
  aspectMin : Nat
  peakMin : Nat
  deriving DecidableEq, Repr, Inhabited

/-- A class's row of grading parameters (section 5.3). -/
structure GradingRow where
  ignoreSize : Nat
  rampCode : Nat
  cutOut : Bool
  mark : Bool
  base : Nat
  peak : Nat
  absolute : Nat
  edgeWeight : Nat
  limitA : Nat
  limitB : Nat
  limitC : Nat
  deriving DecidableEq, Repr, Inhabited

/-- The six grades, best first (chapter 5). -/
inductive Grade where
  | a
  | b
  | c
  | unverified
  | reject
  | short
  deriving DecidableEq, Repr, Inhabited

/-- A line of the order book (section 6.1); `quantity` none is unlimited. -/
structure OrderLine where
  length : Nat
  grade : Grade
  value : Nat
  quantity : Option Nat
  deriving DecidableEq, Repr, Inhabited

/-- A product set (section 8.2), as checked and clamped by R148. -/
structure ProductSet where
  number : BitVec 32
  given : Nat
  retune : Bool
  filterShift : Nat
  minRun : Nat
  joinGap : Nat
  closeGap : Nat
  edgeLevel : Nat
  edgeFilter : Nat
  splitLength : Nat
  minWidth : Nat
  armLength : Nat
  absenceLength : Nat
  widthMargin : Nat
  widthHysteresis : Nat
  zoneWidth : Nat
  pointsA : Nat
  pointsB : Nat
  pointsC : Nat
  thresholds : PerView Thresholds
  tracks : List Track
  lanes : Vector LaneDetection 12
  rules : List ClassRule
  rows : Vector GradingRow 16
  orders : List OrderLine
  deriving DecidableEq, Repr, Inhabited

/-- An order line as the Set Store holds it (R103): with the quantity last set and the remaining quantity, both
none while the line is unlimited. -/
structure BookLine where
  line : OrderLine
  lastSet : Option Nat
  remaining : Option Nat
  deriving DecidableEq, Repr, Inhabited

/-- An accepted set with its acceptance serial and its order book (R149). -/
structure HeldSet where
  set : ProductSet
  serial : BitVec 32
  book : List BookLine
  deriving DecidableEq, Repr, Inhabited

/-- The Next set with its effective position (R149). -/
structure NextSet where
  held : HeldSet
  effective : Pos
  deriving DecidableEq, Repr, Inhabited

/-! ## Ribbon Tracker (chapter 1) -/

/-- The phase of the speed gate (section 1.3). -/
inductive GatePhase where
  | stopped
  | gate
  | slip
  deriving DecidableEq, Repr, Inhabited

/-- The speed gate (section 1.3). `counted` is the model's own: whether the time counter has had its first decrement
in the gate phase in progress, which tells "has returned to 0" (R6) from "has not left 0" (R5). -/
structure SpeedGate where
  phase : GatePhase
  gateCounter : BitVec 24
  timeCounter : BitVec 24
  counted : Bool
  elapsed : BitVec 24
  speed : BitVec 32
  heldSpeed : BitVec 32
  stalled : Bool
  slip : Option Int
  slipAlarm : Bool
  deriving DecidableEq, Repr

/-- An edge result of one side for one line (R14). -/
structure EdgeResult where
  line : Nat
  found : Bool
  filtered : Nat
  deriving DecidableEq, Repr

/-- The two sides of the ribbon (section 1.4). -/
inductive Side where
  | drive
  | operator
  deriving DecidableEq, Repr

/-- What the tracker keeps for one side; `filtered` is in sixteenths of a ribbon step. -/
structure EdgeSide where
  found : Bool
  filtered : Nat
  pending : List EdgeResult
  deriving DecidableEq, Repr

/-- The presence state (R15). -/
inductive Presence where
  | disarmed
  | armed
  deriving DecidableEq, Repr

/-- The Ribbon Tracker. `observedSet` and `checkedSet` hold the acceptance serials of the sets in force at the last
observation and at the last width check, which R17 and R80 compare. -/
structure Tracker where
  gantry : BitVec 48
  triggerBase : BitVec 48
  triggerCount : BitVec 48
  gate : SpeedGate
  drive : EdgeSide
  operator : EdgeSide
  presence : Presence
  streak : Option Pos
  violated : TrackSet
  observedSet : Option (BitVec 32)
  checkedSet : Option (BitVec 32)
  deriving DecidableEq, Repr

/-! ## Lane Receivers (chapter 2) -/

/-- The eight lane states (section 2.5). -/
inductive LaneState where
  | off
  | waitSignal
  | settling
  | tuning
  | live
  | degraded
  | lost
  | fault
  deriving DecidableEq, Repr

/-- The three views of a line. -/
inductive View where
  | transmitted
  | reflected
  | scattered
  deriving DecidableEq, Repr

/-- What the line in assembly holds for one view (R25): nothing yet, a view seen with a payload error, or the
pixels of a valid packet in the order of their index. -/
inductive ViewEntry where
  | notSeen
  | spoilt
  | pixels (values : List Nat)
  deriving DecidableEq, Repr

/-- The line in assembly (R25). -/
structure LineInAssembly where
  views : PerView ViewEntry
  spoilt : Bool
  deriving DecidableEq, Repr

/-- A run of dropped and missing lines (R41). -/
structure BadRun where
  first : Nat
  length : Nat
  deriving DecidableEq, Repr

/-- The error window (R40). -/
structure ErrorWindow where
  start : Nat
  count : Nat
  deriving DecidableEq, Repr

/-- The tune state (section 2.6). `judged` says whether an evaluation line of the dwell has been judged (R43). -/
structure Tune where
  trial : Nat
  passes : Nat
  dwellStart : Nat
  outside : Nat
  judged : Bool
  deriving DecidableEq, Repr

/-- One lane, as the table of section 2.1. `background` is void when none; a view's list is in increasing X. -/
structure Lane where
  state : LaneState
  expected : Option Nat
  assembly : LineInAssembly
  badRun : Option BadRun
  lastAcceptance : Option Pos
  settleStart : Option Pos
  window : Option ErrorWindow
  gain : Nat
  background : Option (PerView (List Nat))
  tune : Option Tune
  tunePending : Bool
  setSeen : Option (BitVec 32)
  headerErrors : BitVec 32
  payloadErrors : BitVec 32
  stalePackets : BitVec 32
  deriving DecidableEq, Repr

/-! ## Flaw Assembler (chapter 3) -/

/-- A run of marked pixels (R30). -/
structure Run where
  view : View
  xStart : Nat
  xEnd : Nat
  polarities : PolSet
  peak : Nat
  count : Nat
  deriving DecidableEq, Repr

/-- A line mark (R47). -/
structure LineMark where
  xStart : Nat
  xEnd : Nat
  views : ViewSet
  polarities : PolSet
  peak : Nat
  count : Nat
  deriving DecidableEq, Repr

/-- An open blob (section 3.3). -/
structure Blob where
  yStart : Pos
  lastLine : Nat
  recentStart : Nat
  recentEnd : Nat
  extent : Option (Nat × Nat)
  views : ViewSet
  polarities : PolSet
  peak : Nat
  count : Nat
  continuedFrom : Option (BitVec 32)
  order : Nat
  deriving DecidableEq, Repr

/-- The outcome of a marking offer (R137). -/
inductive MarkOutcome where
  | planned
  | late
  | full
  | hold
  | trim
  deriving DecidableEq, Repr

/-- A flaw's record (R58). `mark` is none while the flaw was not offered (R64). -/
structure Flaw where
  number : BitVec 32
  lane : LaneId
  flawClass : Nat
  views : ViewSet
  polarities : PolSet
  yStart : Pos
  yEnd : Pos
  xMin : Nat
  xEnd : Nat
  size : Nat
  area : Nat
  peak : Nat
  aspect : Nat
  tracks : TrackSet
  split : Bool
  truncated : Bool
  spilled : Bool
  mark : Option MarkOutcome
  continuedFrom : Option (BitVec 32)
  deriving DecidableEq, Repr

/-- A Flaw Map entry: the record and its journal outcome (section 3.7). -/
structure MapEntry where
  flaw : Flaw
  withheld : Bool
  deriving DecidableEq, Repr

/-- The Flaw Assembler. `opened` counts blobs opened, to give each its opening order. -/
structure Assembler where
  open_ : Vector (List Blob) 12
  opened : Nat
  serial : BitVec 32
  map : List MapEntry
  deriving DecidableEq, Repr

/-! ## Coverage Unit (chapter 4) -/

/-- The five stretch causes. -/
inductive Cause where
  | lane
  | gap
  | width
  | noGlass
  | spill
  deriving DecidableEq, Repr

/-- An entry of the Blind Stretch List (R71). `order` is the order of entry, which breaks ties of Y start (R72). -/
structure Stretch where
  number : BitVec 32
  causes : CauseSet
  tracks : TrackSet
  yStart : Pos
  yEnd : Option Pos
  openCauses : CauseSet
  closedEnd : Option Pos
  lane : Option LaneId
  order : Nat
  deriving DecidableEq, Repr

/-- The open part of a cause: its start s and the entry that carries it, named by its order of entry (R75). -/
structure OpenPart where
  start : Pos
  carrier : Nat
  deriving DecidableEq, Repr

/-- The current set of an open-capable cause and its open part (section 4.3.1). -/
structure CauseState where
  tracks : TrackSet
  part : Option OpenPart
  deriving DecidableEq, Repr

/-- The Coverage Unit. `boundary` is the product boundary passed while its Next set is still held (R79). -/
structure Coverage where
  list : List Stretch
  serial : BitVec 32
  entered : Nat
  lane : CauseState
  width : CauseState
  noGlass : CauseState
  boundary : Option Pos
  deriving DecidableEq, Repr

/-! ## Cut Planner and Plate Grader (chapters 5 and 6) -/

/-- A plate result (R101). -/
structure PlateResult where
  track : Nat
  yStart : Pos
  yEnd : Pos
  grade : Grade
  causes : GradeCauseSet
  points : Nat
  counts : List Nat
  members : Nat
  flaws : List (BitVec 32)
  listTruncated : Bool
  listingIncomplete : Bool
  deriving DecidableEq, Repr

/-- A plate's destination (R112). -/
inductive Destination where
  | order
  | surplus
  | offgrade
  deriving DecidableEq, Repr

/-- A plate of an ORDER segment. -/
structure Plate where
  result : PlateResult
  destination : Destination
  deriving DecidableEq, Repr

/-- Why a CULLET segment was made (R114). -/
inductive CulletCause where
  | cutout
  | forced
  | boundary
  | idle
  deriving DecidableEq, Repr

/-- The kind of a segment, with the fields only that kind has (R121). -/
inductive SegmentKind where
  | order (line : Nat) (remaining : Option Nat) (plates : List Plate)
  | cullet (cause : CulletCause)
  deriving DecidableEq, Repr

/-- The state of a segment in the queue; a REPORTED segment has left it (R124). -/
inductive SegmentState where
  | planned
  | cut
  deriving DecidableEq, Repr

/-- A segment (R121). -/
structure Segment where
  number : BitVec 32
  kind : SegmentKind
  yStart : Pos
  yEnd : Pos
  setNumber : BitVec 32
  late : Bool
  lateness : Nat
  state : SegmentState
  deriving DecidableEq, Repr

/-- The planner states (section 6.2). -/
inductive PlannerState where
  | idle
  | planning
  | runout
  | draining
  deriving DecidableEq, Repr

/-- An accepted order amendment (R128); `quantity` none makes the line unlimited. -/
structure Amendment where
  edit : BitVec 32
  line : Nat
  quantity : Option Nat
  deriving DecidableEq, Repr

/-- What a plan step reads at stage 3 of R108: `boundary` is P_eff while Next is pending (R107), `book` the lines of
Current's book with their indices from 1. -/
structure PlanView where
  settings : LineSettings
  set : ProductSet
  frontier : Pos
  closed : Pos
  limit : Pos
  boundary : Option Pos
  book : List (Nat × BookLine)
  deriving DecidableEq, Repr

/-- A grading request of a plan step (R110): the length of a candidate's segment and the track of its plate, by number
and interval. -/
structure GradingRequest where
  length : Nat
  track : Nat
  interval : Track
  deriving DecidableEq, Repr

/-- A plan step in progress (R109): its stages 1 to 5 are done, `requests` are its grading requests not yet taken and
`results` the results of those taken, each with its segment length. With `runout` the step makes a runout cut and has no
requests. -/
structure PlanProgress where
  view : PlanView
  runout : Bool
  requests : List GradingRequest
  results : List (Nat × PlateResult)
  deriving DecidableEq, Repr

/-- The Cut Planner (section 6.2). `step` is the plan step in progress (R109), none between steps. `turns` is the model's
own: how often the planner has begun or gone on with a step, to which the free value Config.planPause is applied. -/
structure Planner where
  state : PlannerState
  frontier : Option Pos
  queue : List Segment
  serial : BitVec 32
  runouts : BitVec 32
  amendments : List Amendment
  step : Option PlanProgress
  turns : Nat
  deriving DecidableEq, Repr

/-! ## Output Unit (chapter 7) -/

/-- A Cut List entry (R130). `deferred` records that it became due while the strobe was not READY (R131). -/
structure Cut where
  position : Pos
  owner : Option (BitVec 32)
  due : Bool
  deferred : Bool
  deriving DecidableEq, Repr

/-- The strobe states (section 7.2). -/
inductive StrobePhase where
  | ready
  | pulse
  | gap
  deriving DecidableEq, Repr

/-- The cut strobe; `ends` is the pulse end in PULSE and the gap end in GAP. -/
structure Strobe where
  phase : StrobePhase
  high : Bool
  ends : Micros
  deriving DecidableEq, Repr

/-- A Mark List entry (R136). -/
structure MarkEntry where
  flaw : BitVec 32
  nozzles : TrackSet
  yStart : Pos
  deriving DecidableEq, Repr

/-- A marker nozzle (R139); `ends` is its pulse end while BUSY. -/
structure Nozzle where
  busy : Bool
  high : Bool
  ends : Micros
  deriving DecidableEq, Repr

/-- The Output Unit. -/
structure Outputs where
  cuts : List Cut
  strobe : Strobe
  marks : List MarkEntry
  nozzles : Vector Nozzle 4
  hold : Bool
  deriving DecidableEq, Repr

/-! ## Tally Unit (chapter 9) -/

/-- The kinds of tally event and level (section 9.3). -/
inductive TallyKind where
  | none
  | flawClosed
  | seamDuplicate
  | flawSpilled
  | runOverflow
  | plateGraded
  | plateCredited
  | culletCut
  | runoutCut
  | strobeLate
  | markFired
  | markNotMade
  | lineDropped
  | linesMissing
  | laneNotInspecting
  | trackBlind
  | glassAdvance
  | speedStall
  | slip
  | queueOccupancy
  | journalWithheld
  | reverseStep
  | setTaken
  | glassAbsent
  deriving DecidableEq, Repr

/-- A counter's mode (section 9.2). -/
inductive TallyMode where
  | count
  | sum
  | level
  | edge
  deriving DecidableEq, Repr

/-- A counter's configuration (section 9.2). -/
structure TallyConfig where
  kind : TallyKind
  mask : BitVec 16
  threshold : BitVec 32
  invert : Bool
  mode : TallyMode
  wrapAttention : Bool
  clearAtShiftEnd : Bool
  preload : BitVec 40
  deriving DecidableEq, Repr

/-- A tally counter (R157). `seen` holds an EDGE counter's last seen levels, a bit for each selector (R163). -/
structure Counter where
  value : BitVec 40
  overflow : Bool
  config : TallyConfig
  seen : Option (BitVec 16)
  deriving DecidableEq, Repr

/-- One counter's part of a shift snapshot (R166). -/
structure CounterSnapshot where
  value : BitVec 40
  overflow : Bool
  kind : TallyKind
  deriving DecidableEq, Repr

/-- A shift snapshot (R166). -/
structure Snapshot where
  ended : BitVec 32
  begun : BitVec 32
  startPosition : BitVec 48
  startTime : Micros
  endPosition : BitVec 48
  endTime : Micros
  counters : Vector CounterSnapshot 16
  deriving DecidableEq, Repr

/-- The Tally Unit (section 9.1). -/
structure Tallies where
  counters : Vector Counter 16
  freeze : Bool
  shiftTaken : BitVec 32
  shiftStart : BitVec 48
  shiftStartTime : Micros
  requestedShift : BitVec 32
  snapshot : Option Snapshot
  deriving DecidableEq, Repr

/-! ## Set Store (chapter 8) -/

/-- The run states (section 8.4). -/
inductive RunState where
  | halted
  | running
  | draining
  deriving DecidableEq, Repr

/-- A section that was passed and is not yet acted on: its edit number and the image's offset. -/
structure WaitingSection where
  edit : BitVec 32
  offset : Nat
  deriving DecidableEq, Repr

/-- Why a product set section waits (R147). -/
inductive SetHold where
  | noSettings
  | nextFull
  deriving DecidableEq, Repr

/-- The Set Store. -/
structure Store where
  settings : Option LineSettings
  waitingSettings : Option WaitingSection
  current : Option HeldSet
  next : Option NextSet
  waitingSet : Option (WaitingSection × SetHold)
  serial : BitVec 32
  run : RunState
  requested : Bool
  deriving DecidableEq, Repr

/-! ## Exchange Controller (chapter 10) -/

/-- The seven sections of the Request Block, in the order of section 10.2. -/
inductive RequestSection where
  | settings
  | productSet
  | lane
  | marker
  | tally
  | amendment
  | run
  deriving DecidableEq, Repr

/-- A section's edit numbers (section 10.2). -/
structure EditNumbers where
  seen : BitVec 32
  accepted : BitVec 32
  deriving DecidableEq, Repr

/-- The three journals (section 10.3). -/
inductive JournalId where
  | flaw
  | plate
  | notice
  deriving DecidableEq, Repr

/-- What the Exchange Controller keeps for a journal; the journal exists while `place` does (R171). -/
structure Journal where
  place : Option JournalPlace
  writeCount : BitVec 32
  readCopy : BitVec 32
  lastRead : BitVec 32
  withheld : BitVec 32
  badRead : Bool
  deriving DecidableEq, Repr

/-- The Exchange Controller. `pollTimer` is the time in microseconds that the poll timer has still to run;
`expiryDue` is the model's own: whether the timer has expired before a poll or a control reset restarted it, and the
expiry's own poll has yet to be made (R169, R182; log entry 43); `pollInterval` is the poll interval in force, in
milliseconds. -/
structure Exchange where
  attn : BitVec 8
  attnEn : BitVec 8
  line : Bool
  lastFault : BitVec 8
  pollTimer : Nat
  expiryDue : Bool
  pollInterval : Nat
  firstPoll : Bool
  edits : Vector EditNumbers 7
  flaw : Journal
  plate : Journal
  notice : Journal
  deriving DecidableEq, Repr

/-- The exchange memory: the bytes something has written since the power-on numbered `generation`, in strictly rising
address, none equal to what an unwritten byte reads (R168; log entry 1). -/
structure ExchangeMemory where
  generation : Nat
  cells : List Host.Cell
  deriving DecidableEq, Repr

/-! ## The machine -/

/-- The whole part, with the queue of commands that wait. `laneMask` is the lane enable mask last taken (R20). -/
structure State where
  pending : List Instr
  timeBase : Micros
  rtk : Tracker
  laneMask : BitVec 12
  lanes : Vector Lane 12
  fas : Assembler
  cov : Coverage
  cpl : Planner
  out : Outputs
  tly : Tallies
  sst : Store
  xch : Exchange
  mem : ExchangeMemory
  deriving DecidableEq, Repr

/-! ## Updates, one for each block -/

/-- Replace one block of the part. -/
def State.setTime (s : State) (v : Micros) : State := { s with timeBase := v }
def State.setRtk (s : State) (v : Tracker) : State := { s with rtk := v }
def State.setLaneMask (s : State) (v : BitVec 12) : State := { s with laneMask := v }
def State.setLanes (s : State) (v : Vector Lane 12) : State := { s with lanes := v }
def State.setFas (s : State) (v : Assembler) : State := { s with fas := v }
def State.setCov (s : State) (v : Coverage) : State := { s with cov := v }
def State.setCpl (s : State) (v : Planner) : State := { s with cpl := v }
def State.setOut (s : State) (v : Outputs) : State := { s with out := v }
def State.setTly (s : State) (v : Tallies) : State := { s with tly := v }
def State.setSst (s : State) (v : Store) : State := { s with sst := v }
def State.setXch (s : State) (v : Exchange) : State := { s with xch := v }
def State.setMem (s : State) (v : ExchangeMemory) : State := { s with mem := v }
def State.setPending (s : State) (v : List Instr) : State := { s with pending := v }

/-! ## The state after power-on (R183) -/

/-- A line in assembly with nothing in it (R25). -/
def LineInAssembly.empty : LineInAssembly :=
  { views := { transmitted := .notSeen, reflected := .notSeen, scattered := .notSeen }, spoilt := false }

/-- The speed gate at power-on and control reset (section 1.3). -/
def SpeedGate.reset : SpeedGate :=
  { phase := .stopped, gateCounter := 0, timeCounter := 0, counted := false, elapsed := 0, speed := 0,
    heldSpeed := 0, stalled := false, slip := none, slipAlarm := false }

/-- An edge side at power-on, control reset and taking of line settings (section 1.4). -/
def EdgeSide.reset : EdgeSide := { found := false, filtered := 0, pending := [] }

/-- The tracker at a reset made while the gantry position reads `gantry` (sections 1.1 to 1.6). -/
def Tracker.reset (gantry : BitVec 48) : Tracker :=
  { gantry := gantry, triggerBase := gantry, triggerCount := 0, gate := SpeedGate.reset, drive := EdgeSide.reset,
    operator := EdgeSide.reset, presence := .disarmed, streak := none, violated := 0, observedSet := none,
    checkedSet := none }

/-- A lane at power-on and control reset (section 2.1, R21). -/
def Lane.reset : Lane :=
  { state := .off, expected := none, assembly := LineInAssembly.empty, badRun := none, lastAcceptance := none,
    settleStart := none, window := none, gain := 0, background := none, tune := none, tunePending := false,
    setSeen := none, headerErrors := 0, payloadErrors := 0, stalePackets := 0 }

/-- The Flaw Assembler at power-on and control reset (section 3.3). -/
def Assembler.reset : Assembler := { open_ := Vector.replicate 12 [], opened := 0, serial := 1, map := [] }

/-- A cause with an empty set and no open part. -/
def CauseState.empty : CauseState := { tracks := 0, part := none }

/-- The Coverage Unit at power-on and control reset (section 4.5). -/
def Coverage.reset : Coverage :=
  { list := [], serial := 1, entered := 0, lane := CauseState.empty, width := CauseState.empty,
    noGlass := CauseState.empty, boundary := none }

/-- The Cut Planner at power-on and control reset (section 6.2). -/
def Planner.reset : Planner :=
  { state := .idle, frontier := none, queue := [], serial := 1, runouts := 0, amendments := [], step := none,
    turns := 0 }

/-- A nozzle at power-on and control reset (R139). -/
def Nozzle.reset : Nozzle := { busy := false, high := false, ends := 0 }

/-- The Output Unit at power-on and control reset (R135, R141). -/
def Outputs.reset : Outputs :=
  { cuts := [], strobe := { phase := .ready, high := false, ends := 0 }, marks := [],
    nozzles := Vector.replicate 4 Nozzle.reset, hold := false }

/-- A configuration of kind NONE with all other fields 0 (section 9.1). -/
def TallyConfig.reset : TallyConfig :=
  { kind := .none, mask := 0, threshold := 0, invert := false, mode := .count, wrapAttention := false,
    clearAtShiftEnd := false, preload := 0 }

/-- A counter at power-on and control reset (section 9.1). -/
def Counter.reset : Counter := { value := 0, overflow := false, config := TallyConfig.reset, seen := none }

/-- The Tally Unit at a reset made at the given gantry position and time base (section 9.1). -/
def Tallies.reset (gantry : BitVec 48) (time : Micros) : Tallies :=
  { counters := Vector.replicate 16 Counter.reset, freeze := false, shiftTaken := 0, shiftStart := gantry,
    shiftStartTime := time, requestedShift := 0, snapshot := none }

/-- The Set Store at power-on and control reset (chapter 8). -/
def Store.reset : Store :=
  { settings := none, waitingSettings := none, current := none, next := none, waitingSet := none, serial := 1,
    run := .halted, requested := false }

/-- A journal at power-on and control reset (section 10.3); `lastRead` is taken at the first poll (log entry 4). -/
def Journal.reset : Journal :=
  { place := none, writeCount := 0, readCopy := 0, lastRead := 0, withheld := 0, badRead := false }

/-- The Exchange Controller at power-on and control reset (R182, R183): the poll timer runs for 5 ms. The edit numbers
are taken at the first poll (log entry 4). -/
def Exchange.reset : Exchange :=
  { attn := 0, attnEn := 0, line := false, lastFault := 0, pollTimer := Config.defaultPollMs * 1000,
    expiryDue := false, pollInterval := Config.defaultPollMs, firstPoll := true,
    edits := Vector.replicate 7 { seen := 0, accepted := 0 },
    flaw := Journal.reset, plate := Journal.reset, notice := Journal.reset }

/-- The machine right after reset: power-on (R183). Nothing is written in the exchange memory and no command waits. -/
def State.reset : State :=
  { pending := [], timeBase := 0, rtk := Tracker.reset 0, laneMask := 0, lanes := Vector.replicate 12 Lane.reset,
    fas := Assembler.reset, cov := Coverage.reset, cpl := Planner.reset, out := Outputs.reset,
    tly := Tallies.reset 0 0, sst := Store.reset, xch := Exchange.reset, mem := { generation := 0, cells := [] } }

end Sys2Proof.Machine
end

