-- ==== Sys2Proof/Machine/Memory.lean ====
section
/-! DEFINITION. The exchange memory: reading and writing bytes, little-endian fields (R184), and laying fields out in
a block or record. -/
namespace Sys2Proof.Machine

/-! ## Bytes -/

/-- What an address that nothing has written reads (R168; log entry 1). -/
def ExchangeMemory.unlisted (m : ExchangeMemory) (address : Nat) : Byte :=
  Config.undefinedByte m.generation address

/-- The byte listed at an address. -/
def lookupCell : List Host.Cell → Nat → Option Byte
  | [], _ => none
  | c :: rest, address => if c.1 = address then some c.2 else lookupCell rest address

/-- One byte of exchange memory. -/
def ExchangeMemory.read (m : ExchangeMemory) (address : Nat) : Byte :=
  (lookupCell m.cells address).getD (m.unlisted address)

/-- Put a byte in its place; a byte equal to `plain`, what the address reads unlisted, is not listed. -/
def putCell (plain : Byte) : List Host.Cell → Nat → Byte → List Host.Cell
  | [], address, v => if v = plain then [] else [(address, v)]
  | c :: rest, address, v =>
    if address < c.1 then (if v = plain then c :: rest else (address, v) :: c :: rest)
    else if c.1 = address then (if v = plain then rest else (address, v) :: rest)
    else c :: putCell plain rest address v

/-- Write one byte. The window is 256 MiB (R168); an address beyond it is no byte of this memory and takes nothing. -/
def ExchangeMemory.write (m : ExchangeMemory) (address : Nat) (v : Byte) : ExchangeMemory :=
  if address < Config.windowSize then { m with cells := putCell (m.unlisted address) m.cells address v } else m

/-- Write bytes from an address upwards. -/
def ExchangeMemory.writeBytes (m : ExchangeMemory) (address : Nat) : List Byte → ExchangeMemory
  | [] => m
  | v :: rest => (m.write address v).writeBytes (address + 1) rest

/-- Store what the computer has written, in the order it wrote it. -/
def ExchangeMemory.storeCells (m : ExchangeMemory) : List Host.Cell → ExchangeMemory
  | [] => m
  | c :: rest => (m.write c.1 c.2).storeCells rest

/-- Addresses strictly rising, each above `floor`. -/
def risingFrom : Nat → List Host.Cell → Bool
  | _, [] => true
  | floor, c :: rest => decide (floor ≤ c.1) && risingFrom (c.1 + 1) rest

/-- The canonical form: strictly rising addresses inside the window, no entry equal to what its address reads
unlisted. -/
def ExchangeMemory.wf (m : ExchangeMemory) : Bool :=
  risingFrom 0 m.cells && m.cells.all fun c => decide (c.1 < Config.windowSize) && decide (c.2 ≠ m.unlisted c.1)

/-! ## Fields (R184: every multi-byte field is little-endian) -/

/-- The `n` low bytes of a number, least significant first. -/
def le : Nat → Nat → List Byte
  | 0, _ => []
  | n + 1, v => BitVec.ofNat 8 v :: le n (v / 256)

/-- The `n` bytes of a signed number in two's complement. -/
def leInt (n : Nat) (v : Int) : List Byte :=
  le n (v % (2 ^ (8 * n) : Nat)).toNat

/-- The number that bytes write, least significant first. -/
def fromLe : List Byte → Nat
  | [] => 0
  | b :: rest => b.toNat + 256 * fromLe rest

/-- A number of `bits` bits read as two's complement. -/
def toSigned (bits v : Nat) : Int :=
  if v < 2 ^ (bits - 1) then v else (v : Int) - (2 ^ bits : Nat)

/-- The `n` bytes from an address upwards. -/
def ExchangeMemory.readBytes (m : ExchangeMemory) (address : Nat) : Nat → List Byte
  | 0 => []
  | n + 1 => m.read address :: m.readBytes (address + 1) n

/-- An unsigned field of `n` bytes. -/
def ExchangeMemory.readLe (m : ExchangeMemory) (address n : Nat) : Nat :=
  fromLe (m.readBytes address n)

/-- An absent position is written −2^63 (R185). -/
def absentPos : Int := -(2 ^ 63 : Nat)

/-- A position or its absent value, as an i64 (R184, R185). -/
def lePos (p : Option Pos) : List Byte := leInt 8 (p.getD absentPos)

/-- A yes/no field, a set flag as 1. -/
def leBool (b : Bool) : List Byte := le 1 (if b then 1 else 0)

/-- A lane, or 255 where there is none (R185). -/
def leLane (l : Option LaneId) : List Byte := le 1 ((l.map Fin.val).getD 255)

/-- Put bytes at an offset of a block. -/
def placeBytes (block : List Byte) (offset : Nat) (bytes : List Byte) : List Byte :=
  block.take offset ++ bytes ++ block.drop (offset + bytes.length)

/-- A block of `size` bytes that holds the given fields and 0 in every other byte (R184: reserved bytes are 0). -/
def layout (size : Nat) (fields : List (Nat × List Byte)) : List Byte :=
  (fields.foldl (fun block f => placeBytes block f.1 f.2) (List.replicate size 0)).take size

/-- Insert in order: before the first element that `before` says `x` goes before, so equals keep their order. -/
def insertBefore {α : Type} (before : α → α → Bool) (x : α) : List α → List α
  | [] => [x]
  | y :: rest => if before x y then x :: y :: rest else y :: insertBefore before x rest

/-- Sort, keeping the order of equals. -/
def sortBefore {α : Type} (before : α → α → Bool) (l : List α) : List α :=
  l.foldl (fun acc x => insertBefore before x acc) []

end Sys2Proof.Machine
end

