-- ==== Sys2Proof/Machine/Flags.lean ====
section
/-! DEFINITION. The attention causes and the attention line (section 10.6), the five registers as the computer reads
them (section 10.7), and the counting of tally events and levels (sections 9.3 and 9.4). -/
namespace Sys2Proof.Machine

/-- Apply a function to every element of a vector. -/
def mapVec {α β : Type} {n : Nat} (f : α → β) (v : Vector α n) : Vector β n :=
  ⟨⟨v.toArray.toList.map f⟩, by simp⟩

/-- The elements of a vector in order. -/
def vecList {α : Type} {n : Nat} (v : Vector α n) : List α := v.toArray.toList

/-! ## Attention (R179, R180) -/

/-- The eight attention causes, in the order of their bits (section 11.9). -/
inductive AttnCause where
  | flawLevel
  | plateLevel
  | noticeLevel
  | urgent
  | tallyWrap
  | snapshot
  | runChange
  | fault
  deriving DecidableEq, Repr

/-- The bit of ATTN and ATTN_EN that stands for a cause. -/
def AttnCause.bit : AttnCause → BitVec 8
  | .flawLevel => 0x01#8
  | .plateLevel => 0x02#8
  | .noticeLevel => 0x04#8
  | .urgent => 0x08#8
  | .tallyWrap => 0x10#8
  | .snapshot => 0x20#8
  | .runChange => 0x40#8
  | .fault => 0x80#8

/-- Give ATTN and ATTN_EN their values; the attention line follows in the same event (R180). -/
def Exchange.setAttention (x : Exchange) (attn en : BitVec 8) : Exchange :=
  { x with attn := attn, attnEn := en, line := decide (attn &&& en ≠ 0) }

/-- Latch an attention cause (R179). -/
def raiseCause (s : State) (c : AttnCause) : State :=
  s.setXch (s.xch.setAttention (s.xch.attn ||| c.bit) s.xch.attnEn)

/-- Latch a cause when a condition holds. -/
def raiseCauseIf (s : State) (p : Bool) (c : AttnCause) : State :=
  if p then raiseCause s c else s

/-! ## Registers (R181, R182, section 11.9) -/

/-- The code of a run state in RUNSTAT and the Mark Block (section 11.3). -/
def RunState.code : RunState → Nat
  | .halted => 0
  | .running => 1
  | .draining => 2

/-- RUNSTAT: run state in bits 1–0, set waiting in bit 2, last fault code in bits 15–8 (section 11.9). -/
def runstat (s : State) : BitVec 32 :=
  BitVec.ofNat 32 (s.sst.run.code + (if s.sst.waitingSet.isSome then 4 else 0) + 256 * s.xch.lastFault.toNat)

/-- What a read of the register at an offset of the register window returns; CTRL reads 0 (R181, R182). An offset
that names no register has no value. -/
def readRegister (s : State) (offset : Nat) : Option (BitVec 32) :=
  if offset = 0x00 then some Config.partId
  else if offset = 0x04 then some 0
  else if offset = 0x08 then some (s.xch.attn.setWidth 32)
  else if offset = 0x0C then some (s.xch.attnEn.setWidth 32)
  else if offset = 0x10 then some (runstat s)
  else none

/-! ## Tally kinds (section 9.3) -/

/-- The code of a kind. -/
def TallyKind.code : TallyKind → Nat
  | .none => 0
  | .flawClosed => 1
  | .seamDuplicate => 2
  | .flawSpilled => 3
  | .runOverflow => 4
  | .plateGraded => 5
  | .plateCredited => 6
  | .culletCut => 7
  | .runoutCut => 8
  | .strobeLate => 9
  | .markFired => 10
  | .markNotMade => 11
  | .lineDropped => 12
  | .linesMissing => 13
  | .laneNotInspecting => 14
  | .trackBlind => 15
  | .glassAdvance => 16
  | .speedStall => 17
  | .slip => 18
  | .queueOccupancy => 19
  | .journalWithheld => 20
  | .reverseStep => 21
  | .setTaken => 22
  | .glassAbsent => 23

/-- All kinds, in the order of their codes. -/
def TallyKind.all : List TallyKind :=
  [.none, .flawClosed, .seamDuplicate, .flawSpilled, .runOverflow, .plateGraded, .plateCredited, .culletCut,
   .runoutCut, .strobeLate, .markFired, .markNotMade, .lineDropped, .linesMissing, .laneNotInspecting, .trackBlind,
   .glassAdvance, .speedStall, .slip, .queueOccupancy, .journalWithheld, .reverseStep, .setTaken, .glassAbsent]

/-- The kind a code names; a code that names none is NONE (R158). -/
def TallyKind.ofCode (code : Nat) : TallyKind := TallyKind.all.getD code .none

/-- The three kinds that are levels (section 9.4.1). -/
def TallyKind.isLevel : TallyKind → Bool
  | .laneNotInspecting => true
  | .trackBlind => true
  | .glassAbsent => true
  | _ => false

/-! ## Counting events (R160, R161) -/

/-- The selector test: the mask bit numbered (selector mod 16) (R160). -/
def TallyConfig.selects (c : TallyConfig) (selector : Nat) : Bool :=
  c.mask.getLsbD (selector % 16)

/-- The threshold test (R160): no threshold, or no magnitude, passes. -/
def TallyConfig.passes (c : TallyConfig) (magnitude : Option Nat) : Bool :=
  match magnitude with
  | none => true
  | some m =>
    if c.threshold = 0 then true
    else if c.invert then decide (m < c.threshold.toNat)
    else decide (c.threshold.toNat ≤ m)

/-- An event qualifies for a counter (R160). -/
def TallyConfig.qualifies (c : TallyConfig) (kind : TallyKind) (selector : Nat) (magnitude : Option Nat) : Bool :=
  decide (c.kind = kind) && !kind.isLevel && c.selects selector && c.passes magnitude

/-- An addition takes the value past 2^40 − 1 (R161). -/
def Counter.wraps (c : Counter) (n : Nat) : Bool := decide (2 ^ 40 ≤ c.value.toNat + n)

/-- Add to a counter modulo 2^40; a wrap sets the overflow flag (R161). -/
def Counter.add (c : Counter) (n : Nat) : Counter :=
  { c with value := c.value + BitVec.ofNat 40 n, overflow := c.overflow || c.wraps n }

/-- What a qualifying event adds: 1 in COUNT mode and where there is no magnitude, the magnitude in SUM mode (R161). -/
def TallyConfig.amount (c : TallyConfig) (magnitude : Option Nat) : Nat :=
  if c.mode = .sum then magnitude.getD 1 else 1

/-- What the counter adds for an event. -/
def Counter.gain (c : Counter) (kind : TallyKind) (selector : Nat) (magnitude : Option Nat) : Nat :=
  if c.config.qualifies kind selector magnitude then c.config.amount magnitude else 0

/-- Some counter with wrap attention wraps when each adds the amount `gain` gives it. -/
def wrapRaised (counters : Vector Counter 16) (gain : Counter → Nat) : Bool :=
  (vecList counters).any fun c => c.config.wrapAttention && c.wraps (gain c)

/-- Let each counter add the amount `gain` gives it, raising TALLY_WRAP where due (R161). While the freeze is on
nothing is counted (R164). -/
def addTallies (s : State) (gain : Counter → Nat) : State :=
  if s.tly.freeze then s
  else
    raiseCauseIf (s.setTly { s.tly with counters := mapVec (fun c => c.add (gain c)) s.tly.counters })
      (wrapRaised s.tly.counters gain) .tallyWrap

/-- Raise a tally event: every counter judges it (R160). -/
def tallyEvent (s : State) (kind : TallyKind) (selector : Nat) (magnitude : Option Nat) : State :=
  addTallies s fun c => c.gain kind selector magnitude

/-! ## Levels (R162, R163) -/

/-- The number whose bit n is the n-th truth value. -/
def bitsOf : List Bool → Nat
  | [] => 0
  | b :: rest => (if b then 1 else 0) + 2 * bitsOf rest

/-- How many of the 16 bits are set. -/
def countBits (b : BitVec 16) : Nat := (List.range 16).countP fun n => b.getLsbD n

/-- A lane is inspecting in LIVE and DEGRADED (section 2.5). -/
def LaneState.inspecting : LaneState → Bool
  | .live => true
  | .degraded => true
  | _ => false

/-- LANE_NOT_INSPECTING: a lane that is enabled, hence not OFF, and not inspecting (R33). -/
def LaneState.notInspecting : LaneState → Bool
  | .off => false
  | .live => false
  | .degraded => false
  | _ => true

/-- The union of the current sets of LANE, WIDTH and NO_GLASS. -/
def Coverage.blindTracks (c : Coverage) : TrackSet := c.lane.tracks ||| c.width.tracks ||| c.noGlass.tracks

/-- The levels of a level kind as they stand, a bit for each selector (section 9.4.1). -/
def levels (s : State) (kind : TallyKind) : BitVec 16 :=
  match kind with
  | .laneNotInspecting => BitVec.ofNat 16 (bitsOf ((vecList s.lanes).map fun l => l.state.notInspecting))
  | .trackBlind => if s.sst.run = .halted then 0 else BitVec.ofNat 16 (2 * s.cov.blindTracks.toNat)
  | .glassAbsent => if s.rtk.presence = .disarmed then 1 else 0
  | _ => 0

/-- An EDGE counter's rises: selected levels that are true and were not seen true (R163). -/
def Counter.rises (c : Counter) (now : BitVec 16) : Nat :=
  match c.config.mode, c.seen with
  | .edge, some seen => countBits (now &&& ~~~seen &&& c.config.mask)
  | _, _ => 0

/-- An EDGE counter records the levels as seen (R163). -/
def Counter.see (c : Counter) (now : BitVec 16) : Counter :=
  match c.config.mode, c.seen with
  | .edge, some _ => { c with seen := some now }
  | _, _ => c

/-- A level may have changed: EDGE counters count the rises, unless the freeze is on, and record what they see
(R163, R164). -/
def noteLevels (s : State) : State :=
  let counted := addTallies s fun c => c.rises (levels s c.config.kind)
  counted.setTly
    { counted.tly with counters := mapVec (fun c => c.see (levels s c.config.kind)) counted.tly.counters }

/-- What a LEVEL counter adds at an advance: 1 for each selected selector whose level is true (R162). -/
def Counter.levelGain (c : Counter) (now : BitVec 16) : Nat :=
  if c.config.mode = .level && c.config.kind.isLevel then countBits (now &&& c.config.mask) else 0

/-- LEVEL counters at an advance of the gantry position (R162). -/
def advanceLevels (s : State) : State :=
  addTallies s fun c => c.levelGain (levels s c.config.kind)

end Sys2Proof.Machine
end

