-- ==== Sys2Proof/Machine/Ops.lean ====
section
/-! DEFINITION. What every block shares: positions (chapter 1), the set in force (R150), lane fields and coverage
geometry, the closed position (R68), and the journals and notices (sections 10.3 and 10.4). -/
namespace Sys2Proof.Machine

/-! ## Positions -/

/-- The gantry position as a position. -/
def gantryPos (s : State) : Pos := s.rtk.gantry.toNat

/-- The line pitch of the line settings in force; without settings no line is taken and the value is not used. -/
def linePitch (s : State) : Nat := (s.sst.settings.map LineSettings.pitch).getD 1

/-- The position of the line of trigger count K (R4). -/
def linePos (s : State) (k : Nat) : Pos := (s.rtk.triggerBase.toNat + k * linePitch s : Nat)

/-- The marker position, absent without line settings (R2). -/
def markerPosition (s : State) : Option Pos := s.sst.settings.map fun l => gantryPos s - l.markerDistance

/-- The cutter position, absent without line settings (R2). -/
def cutterPosition (s : State) : Option Pos := s.sst.settings.map fun l => gantryPos s - l.cutterDistance

/-- The commit limit, absent without line settings (R2). -/
def commitLimit (s : State) : Option Pos :=
  s.sst.settings.map fun l => gantryPos s - l.cutterDistance + l.commitDistance

/-- A position is at or below the cutter position. -/
def passedCutter (s : State) (y : Pos) : Bool :=
  match cutterPosition s with
  | some c => decide (y ≤ c)
  | none => false

/-- floor(held speed × delay / 1000) (R11). -/
def leadOf (held : BitVec 32) (delay : Nat) : Nat := held.toNat * delay / 1000

/-- The cutter lead (R11). -/
def cutterLead (s : State) : Nat := leadOf s.rtk.gate.heldSpeed ((s.sst.settings.map LineSettings.cutterDelay).getD 0)

/-- The marker lead (R11). -/
def markerLead (s : State) : Nat := leadOf s.rtk.gate.heldSpeed ((s.sst.settings.map LineSettings.markerDelay).getD 0)

/-- The time base has reached an end time. Both are 48-bit readings, so the comparison is modular. -/
def reached (now ends : Micros) : Bool := decide ((now - ends).toNat < 2 ^ 47)

/-- A number of milliseconds in microseconds. -/
def millis (ms : Nat) : Micros := BitVec.ofNat 48 (ms * 1000)

/-! ## The set in force (R150) -/

/-- The set in force at a position: Next from its effective position, Current otherwise, none without Current. -/
def setAt (s : State) (y : Pos) : Option HeldSet :=
  match s.sst.current with
  | none => none
  | some c =>
    match s.sst.next with
    | some n => if n.effective ≤ y then some n.held else some c
    | none => some c

/-- The tracks of a set that meet a condition, as a set. -/
def trackMask (tracks : List Track) (p : Track → Bool) : TrackSet := BitVec.ofNat 4 (bitsOf (tracks.map p))

/-- The tracks of the set in force at a position; none where no set is in force. -/
def tracksAt (s : State) (y : Pos) : List Track := ((setAt s y).map fun h => h.set.tracks).getD []

/-! ## Lanes and fields -/

/-- The twelve lanes, in increasing number. -/
def allLanes : List LaneId := [0, 1, 2, 3, 4, 5, 6, 7, 8, 9, 10, 11]

/-- One lane. -/
def State.lane (s : State) (i : LaneId) : Lane := s.lanes[i]

/-- Replace one lane. -/
def State.setLane (s : State) (i : LaneId) (l : Lane) : State := s.setLanes (s.lanes.set i l)

/-- A lane's geometry under the line settings in force. -/
def geometry (s : State) (i : LaneId) : LaneGeometry :=
  (s.sst.settings.map fun l => l.lanes[i]).getD default

/-- A lane is enabled: line settings in force declare it fitted and its mask bit is set (R20). -/
def enabled (s : State) (i : LaneId) : Bool := (geometry s i).fitted && s.laneMask.getLsbD i

/-- A lane's field [origin, origin + pixel count) (section 2.1). -/
def LaneGeometry.field (g : LaneGeometry) : Nat × Nat := (g.origin, g.origin + g.pixels)

/-- The fitted lanes in increasing X. -/
def fittedInX (l : LineSettings) : List LaneId :=
  sortBefore (fun i j => decide (l.lanes[i].origin < l.lanes[j].origin)) (allLanes.filter fun i => l.lanes[i].fitted)

/-- The inspecting lanes. -/
def inspectingLanes (s : State) : List LaneId := allLanes.filter fun i => (s.lane i).state.inspecting

/-- The end that a union of fields, given in increasing X, reaches from `x` on without a gap (R70). -/
def reachFrom (x : Nat) : List (Nat × Nat) → Nat
  | [] => x
  | f :: rest => reachFrom (if f.1 ≤ x ∧ x < f.2 then f.2 else x) rest

/-- The fields of the given lanes in increasing X. -/
def fieldsInX (s : State) (lanes : List LaneId) : List (Nat × Nat) :=
  sortBefore (fun f g => decide (f.1 < g.1)) (lanes.map fun i => (geometry s i).field)

/-- A track lies inside the union of the given lanes' fields (R70). -/
def coveredBy (s : State) (lanes : List LaneId) (t : Track) : Bool :=
  decide (t.hi ≤ reachFrom t.lo (fieldsInX s lanes))

/-- A lane's next-line position: the least of the expected line, the first line of an open bad run and the gantry
position (R26); absent while the lane expects no line. -/
def nextLine (s : State) (i : LaneId) : Option Pos :=
  (s.lane i).expected.map fun e =>
    let bad := ((s.lane i).badRun.map fun r => linePos s r.first).getD (linePos s e)
    min (min (linePos s e) bad) (gantryPos s)

/-- The open blobs of a lane, by Y start, ties in opening order. -/
def openBlobs (s : State) (i : LaneId) : List Blob := s.fas.open_[i]

/-- The least of some positions. -/
def leastPos : List Pos → Option Pos
  | [] => none
  | p :: rest => some (rest.foldl min p)

/-- The greatest of some positions. -/
def greatestPos : List Pos → Option Pos
  | [] => none
  | p :: rest => some (rest.foldl max p)

/-- A lane's closed position: the lesser of its next-line position and the least Y start of its open blobs (R68). -/
def laneClosed (s : State) (i : LaneId) : Pos :=
  (openBlobs s i).foldl (fun p b => min p b.yStart) ((nextLine s i).getD (gantryPos s))

/-- The closed position: the least among the inspecting lanes, the gantry position when there are none (R68). -/
def closedPosition (s : State) : Pos :=
  (leastPos ((inspectingLanes s).map (laneClosed s))).getD (gantryPos s)

/-! ## Serials -/

/-- The 32-bit serial after a value: after 4,294,967,295 comes 1 (R57, R71, R121, R149). -/
def nextSerial (n : BitVec 32) : BitVec 32 := if n + 1 = 0 then 1 else n + 1

/-! ## Journals (section 10.3) -/

def Exchange.journal (x : Exchange) : JournalId → Journal
  | .flaw => x.flaw
  | .plate => x.plate
  | .notice => x.notice

def Exchange.setJournal (x : Exchange) (id : JournalId) (j : Journal) : Exchange :=
  match id with
  | .flaw => { x with flaw := j }
  | .plate => { x with plate := j }
  | .notice => { x with notice := j }

/-- A journal's number: in notices, in JOURNAL_WITHHELD's selector and in the Mark Block. -/
def JournalId.code : JournalId → Nat
  | .flaw => 0
  | .plate => 1
  | .notice => 2

def JournalId.recordSize : JournalId → Nat
  | .flaw => Config.flawRecordSize
  | .plate => Config.plateRecordSize
  | .notice => Config.noticeRecordSize

/-- The cause a journal raises at its attention level (R173). -/
def JournalId.levelCause : JournalId → AttnCause
  | .flaw => .flawLevel
  | .plate => .plateLevel
  | .notice => .noticeLevel

/-- The unread count: write count − read count copy, modulo 2^32 (R173). -/
def Journal.unread (j : Journal) : Nat := (j.writeCount - j.readCopy).toNat

/-- The journal exists and has room for n records (R173, R124). -/
def Journal.roomFor (j : Journal) (n : Nat) : Bool :=
  match j.place with
  | some p => decide (j.unread + n ≤ p.capacity)
  | none => false

/-- The address of the slot for the record counted `count` (R173). -/
def JournalPlace.slot (p : JournalPlace) (recordSize : Nat) (count : BitVec 32) : Nat :=
  p.base + count.toNat % p.capacity * recordSize

/-- Write records to the slots from a count on. -/
def ExchangeMemory.writeSlots (m : ExchangeMemory) (p : JournalPlace) (recordSize : Nat) (count : BitVec 32) :
    List (List Byte) → ExchangeMemory
  | [] => m
  | r :: rest => (m.writeBytes (p.slot recordSize count) r).writeSlots p recordSize (count + 1) rest

/-- The address of a journal's write count in the Mark Block (section 11.3). -/
def JournalId.writeCountAddress (id : JournalId) : Nat := Config.markBlock + 0x0A8 + 12 * id.code

/-- The unread count is at least the journal's attention level (R173). -/
def Journal.atLevel (j : Journal) : Bool :=
  match j.place with
  | some p => decide (p.level ≤ j.unread)
  | none => false

/-- Write records together: the slots, then the write count and its Mark Block field, then the level cause (R173).
Without a journal nothing is written. -/
def writeRecords (s : State) (id : JournalId) (records : List (List Byte)) : State :=
  let j := s.xch.journal id
  match j.place with
  | none => s
  | some p =>
    let count := j.writeCount + BitVec.ofNat 32 records.length
    let j' := { j with writeCount := count }
    let m := (s.mem.writeSlots p id.recordSize j.writeCount records).writeBytes id.writeCountAddress (le 4 count.toNat)
    raiseCauseIf ((s.setMem m).setXch (s.xch.setJournal id j')) j'.atLevel id.levelCause

/-- A record is withheld: the withheld count rises and JOURNAL_WITHHELD is raised (R175). -/
def withhold (s : State) (id : JournalId) : State :=
  let j := s.xch.journal id
  tallyEvent (s.setXch (s.xch.setJournal id { j with withheld := j.withheld + 1 })) .journalWithheld id.code none

/-! ## Notices (section 10.4) -/

/-- The kinds of notice. -/
inductive NoticeKind where
  | laneState
  | tuneDone
  | tuneFailed
  | stretch
  | speedStall
  | slipAlarm
  | settingsAccepted
  | settingsRefused
  | setAccepted
  | setRefused
  | setTaken
  | amendRefused
  | runState
  | runout
  | marksCancelled
  | shiftReport
  | readCountBad
  deriving DecidableEq, Repr

/-- The code of a kind, in the record and in RUNSTAT's last fault code (section 11.8). -/
def NoticeKind.code : NoticeKind → Nat
  | .laneState => 1
  | .tuneDone => 2
  | .tuneFailed => 3
  | .stretch => 4
  | .speedStall => 5
  | .slipAlarm => 6
  | .settingsAccepted => 7
  | .settingsRefused => 8
  | .setAccepted => 9
  | .setRefused => 10
  | .setTaken => 11
  | .amendRefused => 12
  | .runState => 13
  | .runout => 14
  | .marksCancelled => 15
  | .shiftReport => 16
  | .readCountBad => 17

/-- Kinds that are urgent (section 10.4); RUNOUT is urgent with the action START only. -/
def NoticeKind.urgent : NoticeKind → Bool
  | .tuneFailed => true
  | .speedStall => true
  | .slipAlarm => true
  | .settingsRefused => true
  | .setRefused => true
  | _ => false

/-- A notice record: the header of section 11.8, then the body's fields, whose offsets count from 20 hexadecimal. -/
def noticeRecord (s : State) (kind : NoticeKind) (urgent : Bool) (body : List (Nat × List Byte)) : List Byte :=
  layout Config.noticeRecordSize
    ([(0x00, le 1 kind.code), (0x01, leBool urgent), (0x08, le 8 s.timeBase.toNat), (0x10, lePos (some (gantryPos s)))]
      ++ body.map fun f => (0x20 + f.1, f.2))

/-- Set the last fault code (R181). -/
def setLastFault (s : State) (kind : NoticeKind) : State :=
  s.setXch { s.xch with lastFault := BitVec.ofNat 8 kind.code }

/-- Hand a notice to the Exchange Controller (R177): it is written when the notice journal has room, raising URGENT for
an urgent one, and withheld otherwise, raising FAULT for an urgent one (R175). -/
def notifyWith (s : State) (kind : NoticeKind) (urgent : Bool) (body : List (Nat × List Byte)) : State :=
  if s.xch.notice.roomFor 1 then
    let s1 := writeRecords s .notice [noticeRecord s kind urgent body]
    if urgent then setLastFault (raiseCause s1 .urgent) kind else s1
  else
    let s1 := withhold s .notice
    if urgent then setLastFault (raiseCause s1 .fault) kind else s1

/-- Hand over a notice of a kind whose urgency is fixed. -/
def notify (s : State) (kind : NoticeKind) (body : List (Nat × List Byte)) : State :=
  notifyWith s kind kind.urgent body

end Sys2Proof.Machine
end

