-- ==== Sys2Proof/Machine/Coverage.lean ====
section
/-! DEFINITION. The Coverage Unit (chapter 4): the Blind Stretch List, the open-capable causes and the closed ones,
product boundaries and the two queries. -/
namespace Sys2Proof.Machine

/-- A cause's place in a cause set (R184). -/
def Cause.index : Cause → Nat
  | .lane => 0
  | .gap => 1
  | .width => 2
  | .noGlass => 3
  | .spill => 4

/-- The cause set of one cause. -/
def Cause.bit (c : Cause) : CauseSet := BitVec.ofNat 5 (2 ^ c.index)

/-- The actions of a STRETCH notice (R83). -/
inductive StretchAction where
  | opened
  | entered
  | passed
  | folded
  | partClosed
  | closed
  deriving DecidableEq, Repr

def StretchAction.code : StretchAction → Nat
  | .opened => 0
  | .entered => 1
  | .passed => 2
  | .folded => 3
  | .partClosed => 4
  | .closed => 5

/-- The STRETCH notice of an action on an entry (R83); `incoming` is the folded stretch's cause, absent for the other
actions. -/
def notifyStretch (s : State) (action : StretchAction) (e : Stretch) (incoming : Option Cause) : State :=
  notify s .stretch
    [(0x0, le 1 action.code), (0x1, le 1 e.causes.toNat), (0x2, le 1 e.openCauses.toNat), (0x3, le 1 e.tracks.toNat),
     (0x4, leLane e.lane), (0x5, le 1 ((incoming.map Cause.index).getD 255)), (0x8, le 4 e.number.toNat),
     (0x10, lePos (some e.yStart)), (0x18, lePos e.yEnd)]

/-! ## Entering and folding (R72, R73) -/

/-- A stretch to be entered: open when it has no end. -/
structure Incoming where
  cause : Cause
  tracks : TrackSet
  yStart : Pos
  yEnd : Option Pos
  lane : Option LaneId
  deriving DecidableEq, Repr

/-- The order of the list: by Y start, then in the order of entry (R72). -/
def Stretch.before (a b : Stretch) : Bool :=
  decide (a.yStart < b.yStart) || (decide (a.yStart = b.yStart) && decide (a.order < b.order))

/-- The new entry an incoming stretch would make. -/
def Incoming.entry (inc : Incoming) (number : BitVec 32) (order : Nat) : Stretch :=
  { number := number, causes := inc.cause.bit, tracks := inc.tracks, yStart := inc.yStart, yEnd := inc.yEnd,
    openCauses := if inc.yEnd.isNone then inc.cause.bit else 0, closedEnd := none, lane := inc.lane, order := order }

/-- The greater of two positions, either of which may be absent. -/
def maxPos (a b : Option Pos) : Option Pos :=
  match a, b with
  | some x, some y => some (max x y)
  | some x, none => some x
  | none, y => y

/-- An entry after an incoming stretch has been folded into it (R73). -/
def Stretch.fold (e : Stretch) (inc : Incoming) : Stretch :=
  { e with
    yStart := min e.yStart inc.yStart
    yEnd := match e.yEnd, inc.yEnd with
      | some a, some b => some (max a b)
      | _, _ => none
    tracks := e.tracks ||| inc.tracks
    causes := e.causes ||| inc.cause.bit
    openCauses := e.openCauses ||| (if inc.yEnd.isNone then inc.cause.bit else 0)
    closedEnd := maxPos e.closedEnd (maxPos e.yEnd inc.yEnd)
    lane := if e.lane = inc.lane then e.lane else none }

/-- Put an entry in its place. -/
def Coverage.insert (c : Coverage) (e : Stretch) : Coverage := { c with list := insertBefore Stretch.before e c.list }

/-- The list is full (R72). -/
def Coverage.full (c : Coverage) : Bool := decide (Config.stretchCapacity ≤ c.list.length)

/-- The entry that the next stretch entered will be carried by, named by its order of entry: the one it folds into when
the list is full, else the new one. -/
def Coverage.carrier (c : Coverage) : Nat :=
  match c.list.getLast? with
  | some e => if c.full then e.order else c.entered
  | none => c.entered

/-- A closed stretch at or behind the cutter is not held (R72). -/
def Incoming.notHeld (s : State) (inc : Incoming) : Bool :=
  match inc.yEnd with
  | some e => passedCutter s e
  | none => false

/-- A new entry takes the serial and its place in the list (R71, R72). -/
def addEntry (s : State) (inc : Incoming) : State :=
  let e := inc.entry s.cov.serial s.cov.entered
  let c := { s.cov with serial := nextSerial s.cov.serial, entered := s.cov.entered + 1 }
  notifyStretch (s.setCov (c.insert e)) (if inc.yEnd.isNone then .opened else .entered) e none

/-- A stretch that is not held takes a number and its notice, and leaves the list as it was (R72). -/
def passEntry (s : State) (inc : Incoming) : State :=
  let e := inc.entry s.cov.serial s.cov.entered
  notifyStretch (s.setCov { s.cov with serial := nextSerial s.cov.serial }) .passed e none

/-- A stretch is folded into the last entry (R73). -/
def foldEntry (s : State) (last : Stretch) (inc : Incoming) : State :=
  let e := last.fold inc
  let c := { s.cov with list := s.cov.list.filter fun x => decide (x.order ≠ last.order) }
  notifyStretch (s.setCov (c.insert e)) .folded e (some inc.cause)

/-- Enter a stretch (R72): not held, a new entry, or folded when the list is full (R73). -/
def enterStretch (s : State) (inc : Incoming) : State :=
  if inc.notHeld s then passEntry s inc
  else
    match s.cov.list.getLast? with
    | some last => if s.cov.full then foldEntry s last inc else addEntry s inc
    | none => addEntry s inc

/-! ## The open-capable causes -/

/-- The causes whose condition holds for a while (chapter 4). -/
inductive OpenCause where
  | lane
  | width
  | noGlass
  deriving DecidableEq, Repr

def OpenCause.cause : OpenCause → Cause
  | .lane => .lane
  | .width => .width
  | .noGlass => .noGlass

def Coverage.causeState (c : Coverage) : OpenCause → CauseState
  | .lane => c.lane
  | .width => c.width
  | .noGlass => c.noGlass

def Coverage.setCause (c : Coverage) (oc : OpenCause) (v : CauseState) : Coverage :=
  match oc with
  | .lane => { c with lane := v }
  | .width => { c with width := v }
  | .noGlass => { c with noGlass := v }

/-- A cause leaves an entry's open-cause set at p; the entry closes when none remains (R74). -/
def Stretch.closeCause (e : Stretch) (cause : Cause) (p : Pos) : Stretch :=
  let left := e.openCauses &&& ~~~cause.bit
  { e with openCauses := left, yEnd := if left = 0 then some ((e.closedEnd.map fun q => max p q).getD p) else none }

/-- An entry leaves the list when it is closed with its Y end at or below the cutter position (R74, R81). -/
def Stretch.released (s : State) (e : Stretch) : Bool :=
  match e.yEnd with
  | some y => decide (e.openCauses = 0) && passedCutter s y
  | none => false

/-- Put a changed entry back in the place of the entry with its order of entry. -/
def Coverage.replace (c : Coverage) (e : Stretch) : Coverage :=
  { c with list := c.list.map fun x => if x.order = e.order then e else x }

/-- The cause's open part, if it has one, closes at p in the entry that carries it (R74). The current set is left to
the caller. -/
def closePart (s : State) (oc : OpenCause) (p : Pos) : State :=
  match (s.cov.causeState oc).part with
  | none => s
  | some part =>
    let s1 := s.setCov (s.cov.setCause oc { s.cov.causeState oc with part := none })
    match s1.cov.list.find? fun e => decide (e.order = part.carrier) with
    | none => s1
    | some e =>
      let e' := e.closeCause oc.cause p
      let s2 := s1.setCov (s1.cov.replace e')
      let s3 := notifyStretch s2 (if e'.yEnd.isSome then .closed else .partClosed) e' none
      if e'.released s3 then s3.setCov { s3.cov with list := s3.cov.list.filter fun x => decide (x.order ≠ e'.order) }
      else s3

/-- The cause's current set becomes `tracks`; when it is not empty an open stretch is entered at p and carries the
cause's open part from p (R75). -/
def openPart (s : State) (oc : OpenCause) (tracks : TrackSet) (p : Pos) (lane : Option LaneId) : State :=
  if tracks = 0 then s.setCov (s.cov.setCause oc CauseState.empty)
  else
    let part : OpenPart := { start := p, carrier := s.cov.carrier }
    let s1 := s.setCov (s.cov.setCause oc { tracks := tracks, part := some part })
    enterStretch s1 { cause := oc.cause, tracks := tracks, yStart := p, yEnd := none, lane := lane }

/-- What a change says of a cause's set, from which the set is formed under the tracks in force at a position: the
lanes that inspect, whether glass is absent, or the track numbers the Ribbon Tracker gives. -/
inductive Condition where
  | lane (inspecting : List LaneId)
  | noGlass (absent : Bool)
  | width (tracks : TrackSet)
  deriving DecidableEq, Repr

def Condition.cause : Condition → OpenCause
  | .lane _ => .lane
  | .noGlass _ => .noGlass
  | .width _ => .width

/-- The uncovered-track set of a condition under the tracks of the set in force at y (R70, R16, R18, R79). -/
def formSet (s : State) (cond : Condition) (y : Pos) : TrackSet :=
  match cond with
  | .lane inspecting => trackMask (tracksAt s y) fun t => !coveredBy s inspecting t
  | .noGlass absent => trackMask (tracksAt s y) fun _ => absent
  | .width tracks => tracks &&& trackMask (tracksAt s y) fun _ => true

/-- The condition of a cause as it now holds. -/
def conditionNow (s : State) : OpenCause → Condition
  | .lane => .lane (inspectingLanes s)
  | .noGlass => .noGlass (decide (s.rtk.presence = .disarmed))
  | .width => .width s.cov.width.tracks

/-- One cause at a product boundary: its open part closes at P, and its set formed under Next opens there (R79). -/
def passCause (p : Pos) (s : State) (oc : OpenCause) : State :=
  let tracks := formSet s (conditionNow s oc) p
  openPart (closePart s oc p) oc tracks p none

/-- The boundary of the held Next set is passed (R79): LANE, NO_GLASS and WIDTH in turn. -/
def passBoundary (s : State) (p : Pos) : State :=
  noteLevels ([OpenCause.lane, .noGlass, .width].foldl (passCause p) (s.setCov { s.cov with boundary := some p }))

/-- Next's effective position, while Next is held, the run is not HALTED and its boundary is not passed (R79, R80). -/
def boundaryAhead (s : State) : Option Pos :=
  if s.sst.run = .halted ∨ s.cov.boundary.isSome then none else s.sst.next.map NextSet.effective

/-- Pass the boundary when it lies at or below y (R79). -/
def passBoundaryUpTo (s : State) (y : Pos) : State :=
  match boundaryAhead s with
  | some p => if p ≤ y then passBoundary s p else s
  | none => s

/-- The closed position may have moved: pass the boundary it has reached (R79). -/
def followClosed (s : State) : State := passBoundaryUpTo s (closedPosition s)

/-- Enter a closed stretch over [start, stop); one that crosses Next's effective position is entered as two, each with
the mask of the set in force at its part, and a part with an empty mask is not entered (R77, R78, R79). -/
def enterClosed (s : State) (cause : Cause) (mask : Pos → TrackSet) (start stop : Pos) (lane : Option LaneId) : State :=
  let part (s : State) (a b : Pos) : State :=
    if mask a = 0 then s
    else enterStretch s { cause := cause, tracks := mask a, yStart := a, yEnd := some b, lane := lane }
  match s.sst.next with
  | some n => if start < n.effective ∧ n.effective < stop then part (part s start n.effective) n.effective stop
              else part s start stop
  | none => part s start stop

/-- Where a change that lands early is worked: just after the start of the cause's open part, or at a boundary already
passed while its Next set is held (R76). None when the change does not land early. -/
def earlyPosition (s : State) (oc : OpenCause) (p : Pos) : Option Pos :=
  match (s.cov.causeState oc).part with
  | some part => if p ≤ part.start then some (part.start + 1) else none
  | none =>
    match s.cov.boundary with
    | some b => if p < b ∧ s.sst.next.isSome then some b else none
    | none => none

/-- Work a change of a cause's set resolved at p (R75, R76). -/
def workChange (s : State) (cond : Condition) (p : Pos) (lane : Option LaneId) : State :=
  let oc := cond.cause
  let old := (s.cov.causeState oc).tracks
  let new := formSet s cond p
  if new = old then s
  else
    match earlyPosition s oc p with
    | none => openPart (closePart s oc p) oc new p lane
    | some q =>
      let s1 := closePart s oc q
      let s2 := if new &&& ~~~old = 0 then s1 else enterClosed s1 oc.cause (formSet s1 cond) p q lane
      openPart s2 oc (formSet s2 cond q) q lane

/-- A condition resolved at p forms another set than the one its cause holds; an equal set is no change (R70, R75). -/
def setChanges (s : State) (cond : Condition) (p : Pos) : Bool :=
  decide (formSet s cond p ≠ (s.cov.causeState cond.cause).tracks)

/-- The boundary that a change of a cause's set lands beyond is passed before the change is worked (R75, R79). -/
def passForChange (s : State) (cond : Condition) (p : Pos) : State :=
  if setChanges s cond p then passBoundaryUpTo s p else s

/-- A change of an open-capable cause given with a position (R75): resolved against the closed position, and worked after
the boundary it lands beyond (R79). A set that does not change leads to nothing (R70). In HALTED it is ignored (R80). -/
def changeCause (s : State) (cond : Condition) (position : Pos) (lane : Option LaneId) : State :=
  let p := max position (closedPosition s)
  if decide (s.sst.run = .halted) || !setChanges s cond p then s
  else noteLevels (workChange (passForChange s cond p) cond p lane)

/-! ## The closed causes -/

/-- The tracks a lane's gap leaves blind at a position: those that meet its field and do not lie wholly inside the
fields of the other inspecting lanes (R77). -/
def gapMask (s : State) (i : LaneId) (y : Pos) : TrackSet :=
  let f := (geometry s i).field
  let others := (inspectingLanes s).filter fun j => decide (j ≠ i)
  trackMask (tracksAt s y) fun t => decide (t.lo < f.2 ∧ f.1 < t.hi) && !coveredBy s others t

/-- A GAP given by a lane (R77); in HALTED it is ignored (R80). -/
def giveGap (s : State) (i : LaneId) (start stop : Pos) : State :=
  if s.sst.run = .halted then s else enterClosed s .gap (gapMask s i) start stop (some i)

/-- The tracks in force at a position that a flaw's X extent meets. -/
def tracksMeeting (s : State) (y : Pos) (xMin xEnd : Nat) : TrackSet :=
  trackMask (tracksAt s y) fun t => decide (t.lo < xEnd ∧ xMin < t.hi)

/-- A SPILL given by the Flaw Assembler (R78). -/
def giveSpill (s : State) (f : Flaw) : State :=
  if f.tracks = 0 then s
  else enterClosed s .spill (fun y => tracksMeeting s y f.xMin f.xEnd) f.yStart f.yEnd none

/-! ## Run state and release (R80, R81) -/

/-- One open-capable set at the entry to RUNNING: entered at c when it is not empty. -/
def startCause (c : Pos) (s : State) (cond : Condition) : State :=
  openPart s cond.cause (formSet s cond c) c none

/-- The WIDTH tracks at the entry to RUNNING: the tracker's violated tracks if its last check was made under the set in
force at c (R80). -/
def widthAtStart (s : State) (c : Pos) : TrackSet :=
  if s.rtk.checkedSet.isSome ∧ s.rtk.checkedSet = (setAt s c).map HeldSet.serial then s.rtk.violated else 0

/-- The Coverage Unit at the entry to RUNNING (R80): a boundary at or below the closed position counts as passed, and
the initial stretches open in the order LANE, WIDTH, NO_GLASS. -/
def startCoverage (s : State) : State :=
  let c := closedPosition s
  let passed := match s.sst.next with
    | some n => if n.effective ≤ c then some n.effective else none
    | none => none
  let s1 := s.setCov { s.cov with boundary := passed }
  noteLevels ([Condition.lane (inspectingLanes s), .width (widthAtStart s c),
    .noGlass (decide (s.rtk.presence = .disarmed))].foldl (startCause c) s1)

/-- The Coverage Unit at the entry to HALTED: everything but the serial goes, without a notice (R80). -/
def stopCoverage (s : State) : State :=
  s.setCov { Coverage.reset with serial := s.cov.serial, entered := s.cov.entered }

/-- Closed entries at or behind the cutter leave the list (R81). -/
def releaseStretches (s : State) : State :=
  s.setCov { s.cov with list := s.cov.list.filter fun e => !e.released s }

/-! ## Queries (R82) -/

/-- The answer to the Plate Grader. -/
inductive CoverageAnswer where
  | clear
  | blind
  | width
  deriving DecidableEq, Repr

/-- An entry meets [a, b). -/
def Stretch.meets (e : Stretch) (a b : Pos) : Bool :=
  decide (e.yStart < b) && (match e.yEnd with
    | some y => decide (a < y)
    | none => true)

/-- The grader's query for track `t` (1 to 4) over [a, b). -/
def coverageQuery (s : State) (t : Nat) (a b : Pos) : CoverageAnswer :=
  let hits := s.cov.list.filter fun e => e.tracks.getLsbD (t - 1) && e.meets a b
  if hits.any fun e => e.causes.getLsbD Cause.width.index then .width
  else if hits.isEmpty then .clear
  else .blind

/-- The answer to the planner: none, open, or the greatest Y end. -/
inductive WindowAnswer where
  | none
  | open_
  | until_ (y : Pos)
  deriving DecidableEq, Repr

/-- The planner's query over [a, b), for tracks of any mask. -/
def windowQuery (s : State) (a b : Pos) : WindowAnswer :=
  let hits := s.cov.list.filter fun e => e.meets a b
  if hits.any fun e => e.yEnd.isNone then .open_
  else
    match greatestPos (hits.filterMap Stretch.yEnd) with
    | some y => .until_ y
    | Option.none => .none

end Sys2Proof.Machine
end

