-- ==== Sys2Proof/Machine/Output.lean ====
section
/-! DEFINITION. The Output Unit (chapter 7): the Cut List and the cut strobe, the Mark List, the nozzles and the marker
hold. -/
namespace Sys2Proof.Machine

/-! ## The Cut List and the strobe (sections 7.1 and 7.2) -/

/-- The fire condition: cutter position ≥ position − cutter lead (R131). Without line settings no cut falls due. -/
def atFirePoint (s : State) (c : Cut) : Bool :=
  match cutterPosition s with
  | some p => decide (c.position - cutterLead s ≤ p)
  | none => false

/-- Test the head of the Cut List: a head at its fire point becomes due and stays due; one that becomes due while the
strobe is not READY is recorded as deferred (R131). -/
def judgeHead (s : State) : State :=
  match s.out.cuts with
  | [] => s
  | h :: rest =>
    if !h.due && atFirePoint s h then
      s.setOut { s.out with cuts := { h with due := true, deferred := decide (s.out.strobe.phase ≠ .ready) } :: rest }
    else s

/-- The code of a cullet cause: CULLET_CUT's selector and the plate record's field (R123, section 11.7). -/
def CulletCause.code : CulletCause → Nat
  | .cutout => 0
  | .forced => 1
  | .boundary => 2
  | .idle => 3

/-- The segment a cut ends moves from PLANNED to CUT (R123). -/
def Segment.cutBy (g : Segment) (owner : BitVec 32) (late : Bool) (lateness : Nat) : Segment :=
  if g.number = owner ∧ g.state = .planned then { g with state := .cut, late := late, lateness := lateness } else g

/-- A CULLET segment that the cut moves to CUT raises CULLET_CUT with its length (R123). -/
def culletCutEvent (s : State) (g : Segment) : State :=
  match g.kind with
  | .cullet cause => tallyEvent s .culletCut cause.code (some (g.yEnd - g.yStart).toNat)
  | .order _ _ _ => s

/-- A cut's firing is handed to its owning segment (R133, R123). -/
def cutOwner (s : State) (owner : Option (BitVec 32)) (late : Bool) (lateness : Nat) : State :=
  match owner with
  | none => s
  | some n =>
    let s1 := s.setCpl { s.cpl with queue := s.cpl.queue.map fun g => g.cutBy n late lateness }
    match s.cpl.queue.find? fun g => decide (g.number = n ∧ g.state = .planned) with
    | some g => culletCutEvent s1 g
    | none => s1

/-- The lateness of a late cut fired now: cutter position − (position − cutter lead), 0 when negative, saturating at
2^32 − 1 (R132). -/
def latenessOf (s : State) (c : Cut) : Nat :=
  match cutterPosition s with
  | some p => min (p - (c.position - cutterLead s)).toNat (2 ^ 32 - 1)
  | none => 0

/-- The head cut fires when it is due and the strobe is READY (R132), with the hand-offs of R133. -/
def fireHead (s : State) : State :=
  match s.out.cuts with
  | [] => s
  | h :: rest =>
    if h.due && decide (s.out.strobe.phase = .ready) then
      let lateness := if h.deferred then latenessOf s h else 0
      let width := (s.sst.settings.map LineSettings.strobeWidth).getD 0
      let s1 := s.setOut { s.out with cuts := rest, strobe := { phase := .pulse, high := true, ends := s.timeBase + millis width } }
      let s2 := cutOwner s1 h.owner h.deferred lateness
      if h.deferred then tallyEvent s2 .strobeLate 0 (some lateness) else s2
    else s

/-- The test of R131 and what follows: the head may fall due and fire, and the next head is then tested. -/
def testCuts (s : State) : State := judgeHead (fireHead (judgeHead s))

/-- A cut handed over by the planner joins the end of the list; it is tested when it becomes the head (R130, R131). -/
def handCut (s : State) (position : Pos) (owner : Option (BitVec 32)) : State :=
  let s1 := s.setOut { s.out with cuts := s.out.cuts ++ [{ position := position, owner := owner, due := false, deferred := false }] }
  if s.out.cuts.isEmpty then testCuts s1 else s1

/-- The strobe's pulse end has been reached in PULSE (R134). -/
def pulseEndDue (s : State) : Bool :=
  decide (s.out.strobe.phase = .pulse) && reached s.timeBase s.out.strobe.ends

/-- The pulse end: the output goes low and the strobe enters GAP until pulse end + strobe gap (R134). -/
def endPulse (s : State) : State :=
  let gap := (s.sst.settings.map LineSettings.strobeGap).getD 0
  s.setOut { s.out with strobe := { phase := .gap, high := false, ends := s.out.strobe.ends + millis gap } }

/-- The strobe's gap end has been reached in GAP (R134). -/
def gapEndDue (s : State) : Bool :=
  decide (s.out.strobe.phase = .gap) && reached s.timeBase s.out.strobe.ends

/-- The gap end: the strobe enters READY and the head is tested; a due head fires at once (R134). -/
def endGap (s : State) : State :=
  testCuts (s.setOut { s.out with strobe := { s.out.strobe with phase := .ready, high := false } })

/-! ## The Mark List and the nozzles (sections 7.3 and 7.4) -/

/-- The four nozzles, in increasing number; nozzle n has number n + 1. -/
def allNozzles : List (Fin 4) := [0, 1, 2, 3]

/-- A trigger of a nozzle: its output is high, and its pulse ends a marker width from now, whether it was READY or BUSY
(R139). One MARK_FIRED is raised (R138). -/
def triggerNozzle (s : State) (n : Fin 4) : State :=
  let width := (s.sst.settings.map LineSettings.markerWidth).getD 0
  let nozzle : Nozzle := { busy := true, high := true, ends := s.timeBase + millis width }
  tallyEvent (s.setOut { s.out with nozzles := s.out.nozzles.set n nozzle }) .markFired (n.val + 1) none

/-- Trigger the nozzles of a mask in increasing number (R138). -/
def triggerMask (s : State) (mask : TrackSet) : State :=
  (allNozzles.filter fun (n : Fin 4) => mask.getLsbD n.val).foldl triggerNozzle s

/-- An entry's fire point has been reached: marker position ≥ Y start − marker lead (R138). -/
def markDue (s : State) (yStart : Pos) : Bool :=
  match markerPosition s with
  | some p => decide (yStart - markerLead s ≤ p)
  | none => false

/-- The test of R138: every entry from the head on whose fire point has been reached fires, in list order. -/
def testMarks (s : State) : State :=
  let fired := s.out.marks.takeWhile fun m => markDue s m.yStart
  let s1 := s.setOut { s.out with marks := s.out.marks.dropWhile fun m => markDue s m.yStart }
  fired.foldl (fun t m => triggerMask t m.nozzles) s1

/-- The MARK_NOT_MADE selector of an outcome (R137, R143). A planned mark raises the event only when it is cancelled
later, with selector 4. -/
def MarkOutcome.selector : MarkOutcome → Nat
  | .hold => 0
  | .trim => 1
  | .late => 2
  | .full => 3
  | .planned => 4

/-- The outcome of an offer (R137). -/
def markOutcome (s : State) (tracks : TrackSet) (yStart : Pos) : MarkOutcome :=
  if s.out.hold then .hold
  else if tracks = 0 then .trim
  else if markDue s yStart then .late
  else if Config.markListCapacity ≤ s.out.marks.length then .full
  else .planned

/-- A flaw is offered for marking (R137): a planned mark joins the list in its place by Y start (R136), every other
outcome raises MARK_NOT_MADE. -/
def offerMark (s : State) (flaw : BitVec 32) (tracks : TrackSet) (yStart : Pos) : State :=
  match markOutcome s tracks yStart with
  | .planned =>
    let entry : MarkEntry := { flaw := flaw, nozzles := tracks, yStart := yStart }
    s.setOut { s.out with marks := insertBefore (fun a b => decide (a.yStart < b.yStart)) entry s.out.marks }
  | outcome => tallyEvent s .markNotMade outcome.selector none

/-- Empty the Mark List: each entry removed raises MARK_NOT_MADE with selector 4, CANCELLED (R140, R141). -/
def cancelMarks (s : State) : State :=
  s.out.marks.foldl (fun t _ => tallyEvent t .markNotMade MarkOutcome.planned.selector none) (s.setOut { s.out with marks := [] })

/-- A MARKS_CANCELLED notice; cause 0 HOLD, 1 SETTINGS (section 11.8). -/
def notifyCancelled (s : State) (cause count : Nat) : State :=
  notify s .marksCancelled [(0, le 1 cause), (1, le 1 count)]

/-- A nozzle at rest keeps the pulse end it had. -/
def Nozzle.rest (n : Nozzle) : Nozzle := { n with busy := false, high := false }

/-- The hold turns on: every nozzle's output goes low, the Mark List is emptied, and the notice is written even when no
mark was cancelled (R140). -/
def holdOn (s : State) : State :=
  let count := s.out.marks.length
  let s1 := s.setOut { s.out with hold := true, nozzles := mapVec Nozzle.rest s.out.nozzles }
  notifyCancelled (cancelMarks s1) 0 count

/-- The marker section is taken (R140): a hold that does not change does nothing. -/
def takeHold (s : State) (hold : Bool) : State :=
  if hold && !s.out.hold then holdOn s
  else s.setOut { s.out with hold := hold }

/-- At the taking of line settings the Mark List is emptied, with a notice when it held an entry (R141). -/
def settingsMarks (s : State) : State :=
  if s.out.marks.isEmpty then s else notifyCancelled (cancelMarks s) 1 s.out.marks.length

/-- A nozzle's pulse end has been reached (R139). -/
def nozzleEndDue (s : State) (n : Fin 4) : Bool :=
  s.out.nozzles[n].busy && reached s.timeBase s.out.nozzles[n].ends

/-- The pulse end of a nozzle: its output goes low and it returns to READY (R139). -/
def endNozzle (s : State) (n : Fin 4) : State :=
  s.setOut { s.out with nozzles := s.out.nozzles.set n s.out.nozzles[n].rest }

/-- Both lists are tested at an advance of the gantry position and at a change of the leads (R131, R138, R142). -/
def testOutputs (s : State) : State := testMarks (testCuts s)

end Sys2Proof.Machine
end

