-- ==== Sys2Proof/Machine/Assembly.lean ====
section
/-! DEFINITION. The Flaw Assembler (chapter 3): line marks, open blobs, seam ownership, closes, classification, the Flaw
Map and the hand-over of a line. -/
namespace Sys2Proof.Machine

/-! ## Line marks (R47) -/

/-- The view set of one view (R184). -/
def View.bit : View → ViewSet
  | .transmitted => 0b001#3
  | .reflected => 0b010#3
  | .scattered => 0b100#3

/-- A mark of a single run. -/
def Run.mark (r : Run) : LineMark :=
  { xStart := r.xStart, xEnd := r.xEnd, views := r.view.bit, polarities := r.polarities, peak := r.peak, count := r.count }

/-- A mark with one more run linked to it. -/
def LineMark.link (m : LineMark) (r : Run) : LineMark :=
  { xStart := min m.xStart r.xStart, xEnd := max m.xEnd r.xEnd, views := m.views ||| r.view.bit,
    polarities := m.polarities ||| r.polarities, peak := max m.peak r.peak, count := m.count + r.count }

/-- Unite runs, taken in increasing start, into marks: a run is linked to the mark before it when the space between them
is not more than the join gap (R47). -/
def uniteRuns (joinGap : Nat) : LineMark → List Run → List LineMark
  | m, [] => [m]
  | m, r :: rest => if r.xStart ≤ m.xEnd + joinGap then uniteRuns joinGap (m.link r) rest else m :: uniteRuns joinGap r.mark rest

/-- The line marks of a line's runs, in increasing X (R47). -/
def lineMarks (joinGap : Nat) (runs : List Run) : List LineMark :=
  match sortBefore (fun a b => decide (a.xStart < b.xStart)) runs with
  | [] => []
  | r :: rest => uniteRuns joinGap r.mark rest

/-! ## Joining (R48, R49) -/

/-- A mark widened by the join gap meets a blob's recent extent (R48). -/
def joins (joinGap : Nat) (m : LineMark) (b : Blob) : Bool :=
  decide (m.xStart < b.recentEnd + joinGap ∧ b.recentStart < m.xEnd + joinGap)

/-- A group of marks and blobs, the blobs named by their opening order (R48). -/
structure Group where
  marks : List LineMark
  blobs : List Nat
  deriving DecidableEq, Repr

/-- Add a mark to the groups: it unites the groups that share a blob with it. -/
def addMark (joinGap : Nat) (blobs : List Blob) (groups : List Group) (m : LineMark) : List Group :=
  let own := (blobs.filter (joins joinGap m)).map Blob.order
  let shares (g : Group) : Bool := g.blobs.any fun n => own.contains n
  let met := groups.filter shares
  let rest := groups.filter fun g => !shares g
  rest ++ [{ marks := met.flatMap Group.marks ++ [m],
             blobs := own ++ (met.flatMap Group.blobs).filter fun n => !own.contains n }]

/-- The groups of a line (R48). -/
def lineGroups (joinGap : Nat) (blobs : List Blob) (marks : List LineMark) : List Group :=
  marks.foldl (addMark joinGap blobs) []

/-- The union of two X extents, either of which may be absent. -/
def uniteExtent (a b : Option (Nat × Nat)) : Option (Nat × Nat) :=
  match a, b with
  | some x, some y => some (min x.1 y.1, max x.2 y.2)
  | some x, none => some x
  | none, y => y

/-- Marked pixel counts saturate at 2^32 − 1 (section 3.3). -/
def addPixels (a b : Nat) : Nat := min (a + b) (2 ^ 32 - 1)

/-- A blob with another merged into it (R49). -/
def Blob.absorb (b other : Blob) : Blob :=
  { b with extent := uniteExtent b.extent other.extent, views := b.views ||| other.views,
           polarities := b.polarities ||| other.polarities, peak := max b.peak other.peak,
           count := addPixels b.count other.count }

/-- A blob with a mark added to it (R49). -/
def Blob.take (b : Blob) (m : LineMark) : Blob :=
  { b with extent := uniteExtent b.extent (some (m.xStart, m.xEnd)), views := b.views ||| m.views,
           polarities := b.polarities ||| m.polarities, peak := max b.peak m.peak, count := addPixels b.count m.count }

/-- The survivor of a group takes in the other blobs and the marks; its last line is this line and its recent extent
that of the marks (R49). -/
def surviveWith (k : Nat) (survivor : Blob) (others : List Blob) (marks : List LineMark) : Blob :=
  let b := marks.foldl Blob.take (others.foldl Blob.absorb survivor)
  { b with lastLine := k
           recentStart := (marks.map LineMark.xStart).foldl min (2 ^ 32)
           recentEnd := (marks.map LineMark.xEnd).foldl max 0 }

/-- Resolve a group over a lane's blobs, kept by Y start with ties in opening order: the first blob of the group
survives, the others leave the set (R49). A group without a blob changes nothing here. -/
def resolveGroup (k : Nat) (blobs : List Blob) (g : Group) : List Blob :=
  match blobs.filter fun b => g.blobs.contains b.order with
  | [] => blobs
  | survivor :: others =>
    let b' := surviveWith k survivor others g.marks
    (blobs.filter fun b => !(others.map Blob.order).contains b.order).map fun b =>
      if b.order = survivor.order then b' else b

/-! ## The open blob sets -/

/-- The order of an open blob set: Y start, ties in opening order (section 3.3). -/
def Blob.before (a b : Blob) : Bool :=
  decide (a.yStart < b.yStart) || (decide (a.yStart = b.yStart) && decide (a.order < b.order))

/-- Replace a lane's open blob set. -/
def setBlobs (s : State) (i : LaneId) (blobs : List Blob) : State :=
  s.setFas { s.fas with open_ := s.fas.open_.set i blobs }

/-- A blob leaves its lane's open blob set. -/
def removeBlob (s : State) (i : LaneId) (b : Blob) : State :=
  setBlobs s i ((openBlobs s i).filter fun x => decide (x.order ≠ b.order))

/-- Open a blob: it takes the next opening order and its place in the set. -/
def openBlob (s : State) (i : LaneId) (b : Blob) : State :=
  let b' := { b with order := s.fas.opened }
  (setBlobs s i (insertBefore Blob.before b' (openBlobs s i))) |> fun t => t.setFas { t.fas with opened := t.fas.opened + 1 }

/-! ## Seam ownership (R55, R56) -/

/-- The neighbours of a lane in a list of lanes in increasing X: the one before it and the one after it. -/
def neighbours (i : LaneId) : Option LaneId → List LaneId → Option LaneId × Option LaneId
  | _, [] => (none, none)
  | before, j :: rest => if j = i then (before, rest.head?) else neighbours i (some j) rest

/-- The boundary between two fields: the middle of their overlap (R55). -/
def seam (f g : Nat × Nat) : Nat := (max f.1 g.1 + min f.2 g.2) / 2

/-- A lane's owned range at this moment (R55). -/
def ownedRange (s : State) (i : LaneId) : Nat × Nat :=
  let order := (s.sst.settings.map fittedInX).getD []
  let n := neighbours i none order
  let f := (geometry s i).field
  let bound (j : Option LaneId) (edge : Nat) : Nat :=
    match j with
    | some j => if (s.lane j).state.inspecting then seam (geometry s j).field f else edge
    | none => edge
  (bound n.1 f.1, bound n.2 f.2)

/-- A closing blob whose centre lies outside the lane's owned range is a seam duplicate (R56). -/
def seamDuplicate (s : State) (i : LaneId) (x : Nat × Nat) : Bool :=
  let own := ownedRange s i
  let centre := (x.1 + x.2) / 2
  !(decide (own.1 ≤ centre) && decide (centre < own.2))

/-! ## The flaw record (R58, R59) -/

/-- A saturated 16-bit field. -/
def sat16 (n : Nat) : Nat := min n 65535

/-- A rule matches a flaw (R59). -/
def ClassRule.admits (r : ClassRule) (f : Flaw) : Bool :=
  decide (r.required &&& ~~~f.views = 0) && decide (r.forbidden &&& f.views = 0) &&
  decide (r.sizeMin ≤ f.size) && decide (f.size ≤ r.sizeMax) && decide (r.aspectMin ≤ f.aspect) &&
  decide (r.peakMin ≤ f.peak) &&
  (match r.polarity with
    | .any => true
    | .dark => f.polarities.getLsbD 0
    | .bright => f.polarities.getLsbD 1)

/-- The class of a flaw: that of the first rule that matches, 0 (UNSORTED) when none does (R59). -/
def classify (rules : List ClassRule) (f : Flaw) : Nat :=
  ((rules.find? fun r => r.admits f).map ClassRule.flawClass).getD 0

/-- The record of a blob with X extent `x` closed with the given flags (R58), classified (R59). -/
def flawOf (s : State) (i : LaneId) (b : Blob) (x : Nat × Nat) (split truncated : Bool) : Flaw :=
  let yEnd := linePos s b.lastLine + linePitch s
  let length := (yEnd - b.yStart).toNat
  let width := x.2 - x.1
  let rules := ((setAt s b.yStart).map fun h => h.set.rules).getD []
  let f : Flaw :=
    { number := s.fas.serial, lane := i, flawClass := 0, views := b.views, polarities := b.polarities,
      yStart := b.yStart, yEnd := yEnd, xMin := x.1, xEnd := x.2, size := sat16 (max length width),
      area := sat16 b.count, peak := b.peak, aspect := min (16 * max length width / min length width) 255,
      tracks := tracksMeeting s b.yStart x.1 x.2, split := split, truncated := truncated, spilled := false,
      mark := none, continuedFrom := b.continuedFrom }
  { f with flawClass := classify rules f }

/-- The flag bit of a marking outcome (section 11.6). -/
def MarkOutcome.flag : MarkOutcome → Nat
  | .planned => 8
  | .late => 16
  | .full => 32
  | .hold => 64
  | .trim => 128

/-- A flaw's flags word (section 11.6). -/
def Flaw.flags (f : Flaw) : Nat :=
  (if f.split then 1 else 0) + (if f.truncated then 2 else 0) + (if f.spilled then 4 else 0) +
  (f.mark.map MarkOutcome.flag).getD 0

/-- The 64-byte flaw record (section 11.6). -/
def flawRecord (f : Flaw) : List Byte :=
  layout Config.flawRecordSize
    [(0x00, le 4 f.number.toNat), (0x04, le 4 ((f.continuedFrom.map BitVec.toNat).getD 0)),
     (0x08, lePos (some f.yStart)), (0x10, lePos (some f.yEnd)), (0x18, le 4 f.xMin), (0x1C, le 4 f.xEnd),
     (0x20, le 2 f.size), (0x22, le 2 f.area), (0x24, le 2 f.peak), (0x26, le 2 f.flags), (0x28, le 1 f.lane.val),
     (0x29, le 1 f.flawClass), (0x2A, le 1 f.views.toNat), (0x2B, le 1 f.polarities.toNat), (0x2C, le 1 f.aspect),
     (0x2D, le 1 f.tracks.toNat)]

/-! ## The close (R57, R60, R61, R64 to R67) -/

/-- The Flaw Map is full (R60). -/
def mapFull (s : State) : Bool := decide (Config.flawMapCapacity ≤ s.fas.map.length)

/-- Insert a flaw in the map by Y start, after those with the same Y start (R60). -/
def insertFlaw (s : State) (f : Flaw) (withheld : Bool) : State :=
  s.setFas { s.fas with map := insertBefore (fun a b => decide (a.flaw.yStart < b.flaw.yStart)) { flaw := f, withheld := withheld } s.fas.map }

/-- Offer a flaw for marking when its class is marked in the set in force at its Y start (R64); the outcome is none when
it is not offered. -/
def offerFlaw (s : State) (f : Flaw) : State × Option MarkOutcome :=
  let marked := ((setAt s f.yStart).map fun h => (vecList h.set.rows)[f.flawClass]?.any GradingRow.mark).getD false
  if marked then (offerMark s f.number f.tracks f.yStart, some (markOutcome s f.tracks f.yStart)) else (s, none)

/-- Hand a flaw record to the flaw journal: written when there is room, withheld otherwise (R65). -/
def journalFlaw (s : State) (f : Flaw) : State :=
  if s.xch.flaw.roomFor 1 then writeRecords s .flaw [flawRecord f] else withhold s .flaw

/-- Number, record, map or spill, offer, journal and count a flaw (stages 3 to 8 of R67). Nothing between stages 5 and 8
reads the map, so the entry is put there once, with its marking outcome and journal outcome. -/
def recordFlaw (s : State) (i : LaneId) (b : Blob) (x : Nat × Nat) (split truncated : Bool) : State :=
  let f0 := flawOf s i b x split truncated
  let ahead := !passedCutter s f0.yEnd
  let spilled := ahead && mapFull s
  let f1 := { f0 with spilled := spilled }
  let s1 := s.setFas { s.fas with serial := nextSerial s.fas.serial }
  let s2 := if spilled then giveSpill s1 f1 else s1
  let offered := offerFlaw s2 f1
  let f := { f1 with mark := offered.2 }
  let withheld := !offered.1.xch.flaw.roomFor 1
  let s3 := journalFlaw offered.1 f
  let s4 := if ahead && !spilled then insertFlaw s3 f withheld else s3
  let s5 := tallyEvent s4 .flawClosed f.flawClass (some f.size)
  if spilled then tallyEvent s5 .flawSpilled f.flawClass (some f.size) else s5

/-- The first eight stages of a close (R67), and the flaw number given, if one was. -/
def settleBlob (s : State) (i : LaneId) (b : Blob) (split truncated : Bool) : State × Option (BitVec 32) :=
  match b.extent with
  | none => (s, none)
  | some x =>
    if seamDuplicate s i x then (tallyEvent s .seamDuplicate i.val (some (sat16 b.count)), none)
    else (recordFlaw s i b x split truncated, some s.fas.serial)

/-- A close (R67): the blob holds its place in the set until its close is complete. -/
def closeBlob (s : State) (i : LaneId) (b : Blob) (truncated : Bool) : State :=
  removeBlob (settleBlob s i b false truncated).1 i b

/-- Close blobs in the order given. -/
def closeBlobs (s : State) (i : LaneId) (truncated : Bool) (blobs : List Blob) : State :=
  blobs.foldl (fun t b => closeBlob t i b truncated) s

/-- Every open blob of a lane closes TRUNCATED (R53). -/
def truncateLane (s : State) (i : LaneId) : State := closeBlobs s i true (openBlobs s i)

/-! ## The hand-over of a line (R54) -/

/-- A blob reaching the split length closes SPLIT and its continuation opens (R51). -/
def splitBlob (k : Nat) (i : LaneId) (s : State) (b : Blob) : State :=
  let r := settleBlob s i b true false
  openBlob (removeBlob r.1 i b) i
    { yStart := linePos s (k + 1), lastLine := k, recentStart := b.recentStart, recentEnd := b.recentEnd, extent := none,
      views := 0, polarities := 0, peak := 0, count := 0, continuedFrom := r.2, order := 0 }

/-- The blobs of a lane due for a split after line k: last line k, and length at least the split length (R51). -/
def splitDue (s : State) (i : LaneId) (k splitLength : Nat) : List Blob :=
  (openBlobs s i).filter fun b =>
    decide (b.lastLine = k) && decide (b.yStart + splitLength ≤ linePos s k + linePitch s)

/-- A mark that joined no blob opens one; a full set first closes its oldest blob TRUNCATED (R50). -/
def openMark (k : Nat) (i : LaneId) (s : State) (m : LineMark) : State :=
  let s1 := match openBlobs s i with
    | oldest :: _ => if Config.blobCapacity ≤ (openBlobs s i).length then closeBlob s i oldest true else s
    | [] => s
  openBlob s1 i
    { yStart := linePos s k, lastLine := k, recentStart := m.xStart, recentEnd := m.xEnd,
      extent := some (m.xStart, m.xEnd), views := m.views, polarities := m.polarities, peak := m.peak, count := m.count,
      continuedFrom := none, order := 0 }

/-- The blobs of a lane past the close gap at line k (R52). -/
def gapDue (s : State) (i : LaneId) (k closeGap : Nat) : List Blob :=
  (openBlobs s i).filter fun b => decide (b.lastLine + closeGap < k)

/-- Assemble a line of a lane under a set (R54). -/
def assemble (s : State) (i : LaneId) (k : Nat) (set : ProductSet) (runs : List Run) : State :=
  let groups := lineGroups set.joinGap (openBlobs s i) (lineMarks set.joinGap runs)
  let s2 := setBlobs s i (groups.foldl (resolveGroup k) (openBlobs s i))
  let s3 := (splitDue s2 i k set.splitLength).foldl (splitBlob k i) s2
  let s4 := ((groups.filter fun g => g.blobs.isEmpty).flatMap Group.marks).foldl (openMark k i) s3
  closeBlobs s4 i false (gapDue s4 i k set.closeGap)

/-- A lane hands over line k with its runs, none for a line passed without runs: assembled in RUNNING, discarded
otherwise (R46). -/
def handOver (s : State) (i : LaneId) (k : Nat) (runs : List Run) : State :=
  if s.sst.run = .running then
    match setAt s (linePos s k) with
    | some h => assemble s i k h.set runs
    | none => s
  else s

/-- At an advance, entries whose Y end the cutter position has reached leave the Flaw Map (R62). -/
def releaseFlaws (s : State) : State :=
  s.setFas { s.fas with map := s.fas.map.filter fun e => !passedCutter s e.flaw.yEnd }

end Sys2Proof.Machine
end

