-- ==== Sys2Proof/Machine/Operands.lean ====
section
/-! DEFINITION. What the part reads from outside: the line packet and its checks (R22), the sections of the Request
Block (section 11.2), and the line settings and product set images with their clamping and their conditions (R145,
R148, sections 11.4 and 11.5). -/
namespace Sys2Proof.Machine

/-! ## The line packet (R22) -/

/-- One bit of the CRC with generator x^16 + x^12 + x^5 + 1, most significant bit first. -/
def crcBit (crc : BitVec 16) : BitVec 16 :=
  if crc.msb then (crc <<< 1) ^^^ 0x1021#16 else crc <<< 1

/-- One byte of the CRC. -/
def crcByte (crc : BitVec 16) (b : Byte) : BitVec 16 :=
  let c := crc ^^^ (b.setWidth 16 <<< 8)
  crcBit (crcBit (crcBit (crcBit (crcBit (crcBit (crcBit (crcBit c)))))))

/-- The CRC of a payload: an initial value of all ones and no final inversion (R22). -/
def crc16 (payload : List Byte) : BitVec 16 := payload.foldl crcByte 0xFFFF#16

/-- The 16-bit pixel words of a payload. -/
def pixelWords : List Byte → List Nat
  | a :: b :: rest => (a.toNat + 256 * b.toNat) :: pixelWords rest
  | _ => []

/-- What the receiver finds a packet to be: one with a header error, or one whose line number and view are trusted,
with its pixels where it has no payload error. -/
inductive PacketCheck where
  | headerError
  | trusted (number : Nat) (view : View) (pixels : Option (List Nat))
  deriving DecidableEq, Repr

/-- The view a header names. -/
def viewOf (code : Nat) : Option View :=
  if code = 0 then some .transmitted else if code = 1 then some .reflected else if code = 2 then some .scattered else none

/-- Check a packet at a lane with the given pixel count (R22): the header's checks in order, then the payload's. -/
def checkPacket (lane : LaneId) (pixels : Nat) (bytes : List Byte) : PacketCheck :=
  let at_ (n : Nat) : Nat := (bytes.getD n 0).toNat
  let header := bytes.take 9
  if (header.map BitVec.toNat).sum % 256 ≠ 0 then .headerError
  else if at_ 0 ≠ lane.val then .headerError
  else
    match viewOf (at_ 1) with
    | none => .headerError
    | some view =>
      if at_ 6 + 256 * at_ 7 ≠ pixels then .headerError
      else if bytes.length ≠ 9 + 2 * pixels + 2 then .headerError
      else
        let payload := (bytes.drop 9).take (2 * pixels)
        let footer := fromLe (bytes.drop (9 + 2 * pixels))
        let words := pixelWords payload
        let good := decide ((crc16 payload).toNat = footer) && words.all fun v => decide (v < 1024)
        .trusted (fromLe ((bytes.drop 2).take 4)) view (if good then some words else none)

/-! ## The Request Block (section 11.2) -/

/-- The section's edit number in the Request Block. -/
def RequestSection.address : RequestSection → Nat
  | .settings => Config.requestBlock + 0x40
  | .productSet => Config.requestBlock + 0x48
  | .lane => Config.requestBlock + 0x50
  | .marker => Config.requestBlock + 0x58
  | .tally => Config.requestBlock + 0x80
  | .amendment => Config.requestBlock + 0x60
  | .run => Config.requestBlock + 0x70

/-- A section's place in the order of section 10.2. -/
def RequestSection.index : RequestSection → Fin 7
  | .settings => 0
  | .productSet => 1
  | .lane => 2
  | .marker => 3
  | .tally => 4
  | .amendment => 5
  | .run => 6

/-- A section's edit number as the Request Block holds it. -/
def requestEdit (m : ExchangeMemory) (sec : RequestSection) : BitVec 32 := BitVec.ofNat 32 (m.readLe sec.address 4)

/-- A journal's read count as the Request Block holds it. -/
def requestReadCount (m : ExchangeMemory) (id : JournalId) : BitVec 32 :=
  BitVec.ofNat 32 (m.readLe (Config.requestBlock + 0x04 + 4 * id.code) 4)

/-- A yes/no field is read from bit 0 alone (R184). -/
def yesNo (v : Nat) : Bool := decide (v % 2 = 1)

/-- A quantity field: 65,535 is unlimited (R185). -/
def quantityOf (v : Nat) : Option Nat := if v = 65535 then none else some v

def modeOf (code : Nat) : TallyMode :=
  if code = 1 then .sum else if code = 2 then .level else if code = 3 then .edge else .count

/-- Correct a mode for a kind (R158): a level kind has LEVEL or EDGE, any other COUNT or SUM. -/
def correctMode (kind : TallyKind) (mode : TallyMode) : TallyMode :=
  if kind.isLevel then (if mode = .edge then .edge else .level) else (if mode = .sum then .sum else .count)

/-- The configuration of counter n in the tally section, as R158 corrects it. -/
def requestConfig (m : ExchangeMemory) (n : Nat) : TallyConfig :=
  let a := Config.requestBlock + 0x90 + 24 * n
  let kind := TallyKind.ofCode (m.readLe a 1)
  let flags := m.readLe (a + 2) 1
  { kind := kind, mode := correctMode kind (modeOf (m.readLe (a + 1) 1)), invert := yesNo flags,
    wrapAttention := yesNo (flags / 2), clearAtShiftEnd := yesNo (flags / 4),
    mask := BitVec.ofNat 16 (m.readLe (a + 4) 2), threshold := BitVec.ofNat 32 (m.readLe (a + 8) 4),
    preload := BitVec.ofNat 40 (m.readLe (a + 12) 8) }

/-! ## Clamping (R145, R148) -/

/-- A field's value after clamping, and its offset when it was clamped. -/
structure Clamped (α : Type) where
  value : α
  clamped : List Nat
  deriving Repr

/-- Clamp a numeric field to its range (R145). -/
def clampInt (offset : Nat) (lo hi v : Int) : Clamped Int :=
  if v < lo then ⟨lo, [offset]⟩ else if hi < v then ⟨hi, [offset]⟩ else ⟨v, []⟩

/-- Clamp an unsigned field to its range. -/
def clampNat (offset lo hi v : Nat) : Clamped Nat :=
  if v < lo then ⟨lo, [offset]⟩ else if hi < v then ⟨hi, [offset]⟩ else ⟨v, []⟩

/-- An unsigned field of an image, clamped. -/
def imageField (m : ExchangeMemory) (image offset bytes lo hi : Nat) : Clamped Nat :=
  clampNat offset lo hi (m.readLe (image + offset) bytes)

/-- An unsigned field of an image, as written. -/
def imageRaw (m : ExchangeMemory) (image offset bytes : Nat) : Nat := m.readLe (image + offset) bytes

/-- A lane number already clamped to 0 to 11. -/
def laneOf (n : Nat) : LaneId := ⟨min n 11, by omega⟩

/-- An image of `length` bytes lies in the exchange memory and clear of the two fixed blocks (R145, R148). -/
def imagePlaced (offset length : Nat) : Bool :=
  decide (offset + length ≤ Config.windowSize) && decide (Config.fixedEnd ≤ offset)

/-! ## The line settings image (section 11.4) -/

/-- A direction as clamped for a lane that is not fitted: the nearer of −1 and +1; 0 lies between them and becomes +1
(log entry 9). -/
def clampDirection (offset : Nat) (v : Int) : Clamped Int :=
  if v = 1 ∨ v = -1 then ⟨v, []⟩ else if v < 0 then ⟨-1, [offset]⟩ else ⟨1, [offset]⟩

/-- Lane i of the image. A fitted lane's pixel count and direction are left as written (R145). -/
def readLane (m : ExchangeMemory) (image : Nat) (i : LaneId) : Clamped LaneGeometry :=
  let o := 8 * i.val
  let fitted := yesNo (imageRaw m image o 1)
  let direction := toSigned 8 (imageRaw m image (o + 1) 1)
  let pixels := imageRaw m image (o + 2) 2
  let origin := imageRaw m image (o + 4) 2
  if fitted then ⟨{ fitted := true, direction := direction, pixels := pixels, origin := origin }, []⟩
  else
    let d := clampDirection (o + 1) direction
    let p := clampNat (o + 2) 1024 8192 pixels
    ⟨{ fitted := false, direction := d.value, pixels := p.value, origin := origin }, d.clamped ++ p.clamped⟩

/-- Journal n (0 flaw, 1 plate, 2 notice) of the image. The capacity is left as written; the level is clamped to 1 to
the capacity (R145). -/
def readPlace (m : ExchangeMemory) (image n : Nat) : Clamped JournalPlace :=
  let o := 0xC0 + 16 * n
  let capacity := imageRaw m image (o + 4) 4
  let level := imageField m image (o + 8) 4 1 capacity
  ⟨{ base := imageRaw m image o 4, capacity := capacity, level := level.value }, level.clamped⟩

/-- The line settings at an offset of exchange memory, after the first pass of R145, with the offsets of the clamped
fields in image order. -/
def readSettings (m : ExchangeMemory) (image : Nat) : Clamped LineSettings :=
  let f := imageField m image
  let driveLane := f 0x60 1 0 11
  let operatorLane := f 0x61 1 0 11
  let pitch := f 0x62 1 1 8
  let gapTolerance := f 0x64 1 0 64
  let settleLength := f 0x68 4 0 1000000
  let staleDistance := f 0x6C 4 1 1000000
  let errorWindow := f 0x70 4 256 65536
  let errorThreshold := f 0x74 4 1 65536
  let recoverThreshold := f 0x78 4 0 65535
  let gainStep := f 0x7E 1 1 32
  let dwell := f 0x80 2 16 4096
  let dwellTolerance := f 0x82 2 0 2048
  let bandLow := f 0x84 2 0 1023
  let bandHigh := f 0x86 2 0 1023
  let gateLength := f 0x88 2 100 60000
  let rleRatio := f 0x8A 2 100 10000
  let slipLimit := f 0x8C 2 1 500
  let markerDistance := f 0x90 4 0 1000000
  let cutterDistance := f 0x94 4 10000 1000000
  let commitDistance := f 0x98 4 0 1000000
  let cutterDelay := f 0x9C 2 0 2000
  let markerDelay := f 0x9E 2 0 2000
  let strobeWidth := f 0xA0 2 1 100
  let strobeGap := f 0xA2 2 1 1000
  let markerWidth := f 0xA4 2 2 200
  let pollInterval := f 0xA6 2 1 100
  let headMargin := f 0xA8 4 1 100000
  let urgencyMargin := f 0xAC 4 0 70000
  let culletMin := f 0xB0 4 1000 70000
  let culletMax := f 0xB4 4 1000 140000
  let clearance := f 0xB8 4 0 10000
  let flawPlace := readPlace m image 0
  let platePlace := readPlace m image 1
  let noticePlace := readPlace m image 2
  { value :=
      { lanes := Vector.ofFn fun i => (readLane m image i).value
        driveLane := laneOf driveLane.value, operatorLane := laneOf operatorLane.value, pitch := pitch.value,
        tuneOnSettle := yesNo (imageRaw m image 0x63 1), gapTolerance := gapTolerance.value,
        settleLength := settleLength.value, staleDistance := staleDistance.value, errorWindow := errorWindow.value,
        errorThreshold := errorThreshold.value, recoverThreshold := recoverThreshold.value,
        gainFloor := imageRaw m image 0x7C 1, gainCeiling := imageRaw m image 0x7D 1, gainStep := gainStep.value,
        dwell := dwell.value, dwellTolerance := dwellTolerance.value, bandLow := bandLow.value,
        bandHigh := bandHigh.value, gateLength := gateLength.value, rleRatio := rleRatio.value,
        slipLimit := slipLimit.value, markerDistance := markerDistance.value, cutterDistance := cutterDistance.value,
        commitDistance := commitDistance.value, cutterDelay := cutterDelay.value, markerDelay := markerDelay.value,
        strobeWidth := strobeWidth.value, strobeGap := strobeGap.value, markerWidth := markerWidth.value,
        pollInterval := pollInterval.value, headMargin := headMargin.value, urgencyMargin := urgencyMargin.value,
        culletMin := culletMin.value, culletMax := culletMax.value, clearance := clearance.value,
        flawPlace := flawPlace.value, platePlace := platePlace.value, noticePlace := noticePlace.value }
    clamped :=
      (allLanes.flatMap fun i => (readLane m image i).clamped) ++ driveLane.clamped ++ operatorLane.clamped ++
      pitch.clamped ++ gapTolerance.clamped ++ settleLength.clamped ++ staleDistance.clamped ++ errorWindow.clamped ++
      errorThreshold.clamped ++ recoverThreshold.clamped ++ gainStep.clamped ++ dwell.clamped ++
      dwellTolerance.clamped ++ bandLow.clamped ++ bandHigh.clamped ++ gateLength.clamped ++ rleRatio.clamped ++
      slipLimit.clamped ++ markerDistance.clamped ++ cutterDistance.clamped ++ commitDistance.clamped ++
      cutterDelay.clamped ++ markerDelay.clamped ++ strobeWidth.clamped ++ strobeGap.clamped ++ markerWidth.clamped ++
      pollInterval.clamped ++ headMargin.clamped ++ urgencyMargin.clamped ++ culletMin.clamped ++ culletMax.clamped ++
      clearance.clamped ++ flawPlace.clamped ++ platePlace.clamped ++ noticePlace.clamped }

/-- A refusal of an image: its reason, numbered by its order in the tables of R145 and R148, and the item concerned. -/
structure ImageRefusal where
  reason : Nat
  item : Option Nat
  deriving DecidableEq, Repr

/-- The least of some numbers. -/
def leastNat : List Nat → Option Nat
  | [] => none
  | n :: rest => some (rest.foldl min n)

/-- Condition 2, LANE_GEOMETRY, of one lane. -/
def badGeometry (g : LaneGeometry) : Bool :=
  g.fitted && (decide (g.pixels < 1024) || decide (8192 < g.pixels) ||
    !(decide (g.direction = 1) || decide (g.direction = -1)) || decide (65536 < g.origin + g.pixels))

/-- How far two fields overlap, g starting at or after f; not positive when they do not. -/
def overlapOf (f g : Nat × Nat) : Int := (min f.2 g.2 : Int) - (g.1 : Int)

/-- Condition 3, LANE_OVERLAP: the lanes of the offending pairs, the fitted lanes taken in increasing origin. -/
def badOverlaps (l : LineSettings) : List LaneId → List Nat
  | i :: j :: rest =>
    let f := l.lanes[i].field
    let g := l.lanes[j].field
    let near := if decide (overlapOf f g < 64) || decide (f.1 = g.1) then [i.val, j.val] else []
    let far := match rest.head? with
      | some k => if (l.lanes[k].field).1 < f.2 then [i.val, k.val] else []
      | none => []
    near ++ far ++ badOverlaps l (j :: rest)
  | _ => []

/-- The capacities a journal may have: the powers of two from 16 to 65,536 (R145). -/
def journalCapacities : List Nat :=
  [16, 32, 64, 128, 256, 512, 1024, 2048, 4096, 8192, 16384, 32768, 65536]

/-- A journal's extent in bytes. -/
def placeExtent (p : JournalPlace) (recordSize : Nat) : Nat × Nat := (p.base, p.base + p.capacity * recordSize)

/-- Two byte extents intersect. -/
def extentsMeet (a b : Nat × Nat) : Bool := decide (a.1 < b.2 ∧ b.1 < a.2)

/-- The three journals' places with their record sizes. -/
def LineSettings.places (l : LineSettings) : List (JournalPlace × Nat) :=
  [(l.flawPlace, Config.flawRecordSize), (l.platePlace, Config.plateRecordSize),
   (l.noticePlace, Config.noticeRecordSize)]

/-- Condition 9, JOURNAL_PLACE, of journal n. -/
def badPlace (l : LineSettings) (n : Nat) : Bool :=
  match l.places[n]? with
  | none => false
  | some (p, size) =>
    let e := placeExtent p size
    decide (p.base % size ≠ 0) || decide (Config.windowSize < e.2) || decide (e.1 < Config.fixedEnd) ||
    (l.places.zipIdx.any fun q => decide (q.2 ≠ n) && extentsMeet e (placeExtent q.1.1 q.1.2))

/-- The second pass of R145 on the clamped values, conditions 2 to 9 in order. -/
def checkSettings (l : LineSettings) : Option ImageRefusal :=
  let badLane := (allLanes.filter fun i => badGeometry l.lanes[i]).head?
  let overlap := leastNat (badOverlaps l (fittedInX l))
  let badCapacity := ([0, 1, 2].filter fun n =>
    match l.places[n]? with
    | some q => !journalCapacities.contains q.1.capacity
    | none => false).head?
  let misplaced := ([0, 1, 2].filter (badPlace l)).head?
  if badLane.isSome then some { reason := 2, item := badLane.map Fin.val }
  else if overlap.isSome then some { reason := 3, item := overlap }
  else if !l.lanes[l.driveLane].fitted || !l.lanes[l.operatorLane].fitted then some { reason := 4, item := none }
  else if l.cutterDistance ≤ l.markerDistance ∨ l.cutterDistance ≤ l.commitDistance then some { reason := 5, item := none }
  else if l.culletMin < l.urgencyMargin ∨ l.culletMax < l.culletMin then some { reason := 6, item := none }
  else if l.errorThreshold ≤ l.recoverThreshold then some { reason := 7, item := none }
  else if badCapacity.isSome then some { reason := 8, item := badCapacity }
  else if misplaced.isSome then some { reason := 9, item := misplaced }
  else none

/-! ## The product set image (section 11.5) -/

/-- A product set image after the first pass of R148, with the counts and codes that its conditions judge as written. -/
structure RawSet where
  set : ProductSet
  trackCount : Nat
  ruleCount : Nat
  lineCount : Nat
  gradeCodes : List Nat
  clamped : List Nat
  deriving Repr

/-- A track's bounds, 0 to 65,536. -/
def readTrack (m : ExchangeMemory) (image n : Nat) : Clamped Track :=
  let lo := imageField m image (0x48 + 8 * n) 4 0 65536
  let hi := imageField m image (0x4C + 8 * n) 4 0 65536
  ⟨{ lo := lo.value, hi := hi.value }, lo.clamped ++ hi.clamped⟩

/-- An offset of a lane, −256 to 255. -/
def readOffset (m : ExchangeMemory) (image offset : Nat) : Clamped Int :=
  clampInt offset (-256) 255 (toSigned 16 (imageRaw m image offset 2))

/-- A lane's fields. -/
def readDetection (m : ExchangeMemory) (image : Nat) (i : LaneId) : Clamped LaneDetection :=
  let o := 0x70 + 8 * i.val
  let a := readOffset m image o
  let b := readOffset m image (o + 2)
  let c := readOffset m image (o + 4)
  ⟨{ offsets := { transmitted := a.value, reflected := b.value, scattered := c.value }, gain := imageRaw m image (o + 6) 1 },
   a.clamped ++ b.clamped ++ c.clamped⟩

/-- The thresholds of view n. -/
def readThresholds (m : ExchangeMemory) (image n : Nat) : Clamped Thresholds :=
  let d := imageField m image (0x38 + 4 * n) 2 1 1023
  let b := imageField m image (0x3A + 4 * n) 2 1 1023
  ⟨{ dark := d.value, bright := b.value }, d.clamped ++ b.clamped⟩

def polarityOf (code : Nat) : RulePolarity := if code = 0 then .any else if code = 1 then .dark else .bright

/-- A class rule; its class is left as written (R148). -/
def readRule (m : ExchangeMemory) (image n : Nat) : Clamped ClassRule :=
  let o := 0xD0 + 16 * n
  let pol := imageField m image (o + 3) 1 0 2
  let peak := imageField m image (o + 10) 2 0 1023
  ⟨{ flawClass := imageRaw m image o 1, required := BitVec.ofNat 3 (imageRaw m image (o + 1) 1),
     forbidden := BitVec.ofNat 3 (imageRaw m image (o + 2) 1), polarity := polarityOf pol.value,
     sizeMin := imageRaw m image (o + 4) 2, sizeMax := imageRaw m image (o + 6) 2,
     aspectMin := imageRaw m image (o + 8) 1, peakMin := peak.value }, pol.clamped ++ peak.clamped⟩

/-- A grading row; its ramp range code is left as written (R148). -/
def readRow (m : ExchangeMemory) (image n : Nat) : Clamped GradingRow :=
  let o := 0x1D0 + 16 * n
  let flags := imageRaw m image (o + 3) 1
  let b := imageField m image (o + 4) 2 0 4095
  let p := imageField m image (o + 6) 2 0 4095
  let w := imageField m image (o + 10) 1 0 64
  ⟨{ ignoreSize := imageRaw m image o 2, rampCode := imageRaw m image (o + 2) 1, cutOut := yesNo flags,
     mark := yesNo (flags / 2), base := b.value, peak := p.value, absolute := imageRaw m image (o + 8) 2,
     edgeWeight := w.value, limitA := imageRaw m image (o + 11) 1, limitB := imageRaw m image (o + 12) 1,
     limitC := imageRaw m image (o + 13) 1 }, b.clamped ++ p.clamped ++ w.clamped⟩

/-- The grade an order line asks for (section 11.5); other codes are refused by ORDER_BOOK. -/
def gradeOfCode (code : Nat) : Grade := if code = 1 then .a else if code = 2 then .b else .c

/-- An order line; its length and required grade are left as written (R148). -/
def readOrder (m : ExchangeMemory) (image n : Nat) : Clamped OrderLine :=
  let o := 0x2D0 + 8 * n
  let v := imageField m image (o + 5) 1 1 255
  ⟨{ length := imageRaw m image o 4, grade := gradeOfCode (imageRaw m image (o + 4) 1), value := v.value,
     quantity := quantityOf (imageRaw m image (o + 6) 2) }, v.clamped⟩

/-- The product set at an offset of exchange memory, after the first pass of R148, with the offsets of the clamped
fields in image order. Entries beyond a list's count are ignored (R186). -/
def readSet (m : ExchangeMemory) (image : Nat) : RawSet :=
  let f := imageField m image
  let trackCount := imageRaw m image 0x11 1
  let ruleCount := imageRaw m image 0x12 1
  let lineCount := imageRaw m image 0x13 1
  let tracks := (List.range (min trackCount 4)).map (readTrack m image)
  let rules := (List.range (min ruleCount 16)).map (readRule m image)
  let orders := (List.range (min lineCount 16)).map (readOrder m image)
  let rows := (List.range 16).map (readRow m image)
  let t0 := readThresholds m image 0
  let t1 := readThresholds m image 1
  let t2 := readThresholds m image 2
  let filterShift := f 0x14 1 1 12
  let minRun := f 0x15 1 1 16
  let joinGap := f 0x16 1 0 64
  let closeGap := f 0x17 1 1 255
  let edgeLevel := f 0x18 2 0 1023
  let edgeFilter := f 0x1A 1 0 8
  let splitLength := f 0x1C 2 1000 60000
  let armLength := f 0x20 4 0 1000000
  let absenceLength := f 0x24 4 0 1000000
  let widthMargin := f 0x28 2 0 10000
  let widthHysteresis := f 0x2A 2 0 10000
  let zoneWidth := f 0x2C 2 0 2000
  { set :=
      { number := BitVec.ofNat 32 (imageRaw m image 0x04 4), given := imageRaw m image 0x08 8 % 2 ^ 48,
        retune := yesNo (imageRaw m image 0x10 1), filterShift := filterShift.value, minRun := minRun.value,
        joinGap := joinGap.value, closeGap := closeGap.value, edgeLevel := edgeLevel.value,
        edgeFilter := edgeFilter.value, splitLength := splitLength.value, minWidth := imageRaw m image 0x1E 2,
        armLength := armLength.value, absenceLength := absenceLength.value, widthMargin := widthMargin.value,
        widthHysteresis := widthHysteresis.value, zoneWidth := zoneWidth.value, pointsA := imageRaw m image 0x30 2,
        pointsB := imageRaw m image 0x32 2, pointsC := imageRaw m image 0x34 2,
        thresholds := { transmitted := t0.value, reflected := t1.value, scattered := t2.value },
        tracks := tracks.map Clamped.value, lanes := Vector.ofFn fun i => (readDetection m image i).value,
        rules := rules.map Clamped.value, rows := Vector.ofFn fun i => (readRow m image i.val).value,
        orders := orders.map Clamped.value }
    trackCount := trackCount
    ruleCount := ruleCount
    lineCount := lineCount
    gradeCodes := (List.range (min lineCount 16)).map fun n => imageRaw m image (0x2D4 + 8 * n) 1
    clamped :=
      filterShift.clamped ++ minRun.clamped ++ joinGap.clamped ++ closeGap.clamped ++ edgeLevel.clamped ++
      edgeFilter.clamped ++ splitLength.clamped ++ armLength.clamped ++ absenceLength.clamped ++ widthMargin.clamped ++
      widthHysteresis.clamped ++ zoneWidth.clamped ++ t0.clamped ++ t1.clamped ++ t2.clamped ++
      tracks.flatMap Clamped.clamped ++ (allLanes.flatMap fun i => (readDetection m image i).clamped) ++
      rules.flatMap Clamped.clamped ++ rows.flatMap Clamped.clamped ++ orders.flatMap Clamped.clamped }

/-- The lowest index, counted from `base`, of an element that meets a condition. -/
def lowest {α : Type} (base : Nat) (p : α → Bool) (l : List α) : Option Nat := (l.findIdx? p).map fun n => n + base

/-- Condition 3, TRACK_LAYOUT: a track that is empty or begins below the end of the one before it. -/
def badTracks : Nat → List Track → List Bool
  | _, [] => []
  | before, t :: rest => (decide (t.hi ≤ t.lo) || decide (t.lo < before)) :: badTracks t.hi rest

/-- Condition 8, ORDER_BOOK, of a line with its grade code. -/
def badOrder (culletMin : Nat) (line : OrderLine × Nat) : Bool :=
  decide (line.1.length < culletMin) || decide (70000 < line.1.length) || decide (line.2 < 1) || decide (3 < line.2)

/-- The second pass of R148 on the clamped values, conditions 2 to 9 in order, against the line settings in force. -/
def checkSet (l : LineSettings) (r : RawSet) : Option ImageRefusal :=
  let layoutAt := lowest 1 id (badTracks 0 r.set.tracks)
  let ruleAt := lowest 1 (fun c : ClassRule => decide (c.flawClass < 1) || decide (15 < c.flawClass)) r.set.rules
  let rowAt := lowest 0 (fun g : GradingRow => decide (g.peak < g.base) || decide (15 < g.rampCode)) (vecList r.set.rows)
  let orderAt := lowest 1 (badOrder l.culletMin) (r.set.orders.zip r.gradeCodes)
  if r.trackCount < 1 ∨ 4 < r.trackCount then some { reason := 2, item := none }
  else if layoutAt.isSome then some { reason := 3, item := layoutAt }
  else if 16 < r.ruleCount then some { reason := 4, item := none }
  else if ruleAt.isSome then some { reason := 5, item := ruleAt }
  else if rowAt.isSome then some { reason := 6, item := rowAt }
  else if r.set.pointsB < r.set.pointsA ∨ r.set.pointsC < r.set.pointsB then some { reason := 7, item := none }
  else if 16 < r.lineCount then some { reason := 8, item := none }
  else if orderAt.isSome then some { reason := 8, item := orderAt }
  else if r.set.splitLength < r.set.closeGap * l.pitch then some { reason := 9, item := none }
  else none

/-- Condition 1 of R148, IMAGE_PLACE: the length the image gives for itself must be 848 to 16,384, and the image must lie
in the exchange memory, clear of the fixed blocks (R186). An offset whose first four bytes are not in the memory has
no length to read. -/
def setPlaced (m : ExchangeMemory) (image : Nat) : Bool :=
  decide (image + 4 ≤ Config.windowSize) &&
  (let length := imageRaw m image 0x00 4
   decide (Config.setImageMin ≤ length) && decide (length ≤ Config.setImageMax) && imagePlaced image length)

/-- The set number a refused image names, absent when it lies outside the exchange memory (R148). -/
def refusedSetNumber (m : ExchangeMemory) (image : Nat) : Nat :=
  if image + 8 ≤ Config.windowSize then imageRaw m image 0x04 4 else 0xFFFFFFFF

end Sys2Proof.Machine
end

