-- ==== Sys2Proof/Machine/Pixels.lean ====
section
/-! DEFINITION. The processing of a line's pixels (section 2.4): correction, background, marking and runs. Lists of
pixels are in increasing X. -/
namespace Sys2Proof.Machine

def PerView.get {α : Type} (p : PerView α) : View → α
  | .transmitted => p.transmitted
  | .reflected => p.reflected
  | .scattered => p.scattered

def PerView.set {α : Type} (p : PerView α) (v : View) (x : α) : PerView α :=
  match v with
  | .transmitted => { p with transmitted := x }
  | .reflected => { p with reflected := x }
  | .scattered => { p with scattered := x }

/-- floor((v − offset) × (256 + g) / 256), clamped to 0 to 1023 (R27). -/
def correctPixel (offset : Int) (gain : Nat) (v : Nat) : Nat :=
  (max 0 (min 1023 (((v : Int) - offset) * (256 + gain : Nat) / 256))).toNat

/-- The pixels of a packet, given by index, in increasing X: pixel p lies at origin + p for direction +1 and at
origin + pixel count − 1 − p for direction −1 (R19). -/
def inX (g : LaneGeometry) (pixels : List Nat) : List Nat := if g.direction = -1 then pixels.reverse else pixels

/-- How a pixel is marked: its polarity, with its magnitude (R29). -/
inductive PixelMark where
  | plain
  | dark (magnitude : Nat)
  | bright (magnitude : Nat)
  deriving DecidableEq, Repr

/-- Mark a pixel of corrected value `c` against background `b` (R29). -/
def markPixel (t : Thresholds) (c b : Nat) : PixelMark :=
  let base := b / 64
  if c + t.dark ≤ base then .dark (base - c) else if base + t.bright ≤ c then .bright (c - base) else .plain

/-- The background of a pixel that was not marked: b + floor((64c − b) / 2^k) (R28). -/
def followBackground (shift c b : Nat) : Nat := ((b : Int) + ((64 * c : Nat) - (b : Int)) / (2 ^ shift : Nat)).toNat

/-- The background after a line (R28): a marked pixel keeps it. -/
def updateBackground (t : Thresholds) (shift : Nat) (c b : Nat) : Nat :=
  match markPixel t c b with
  | .plain => followBackground shift c b
  | _ => b

/-- The polarity set of a marked pixel; empty for one that is not marked. -/
def PixelMark.polarity : PixelMark → PolSet
  | .plain => 0b00#2
  | .dark _ => 0b01#2
  | .bright _ => 0b10#2

def PixelMark.magnitude : PixelMark → Nat
  | .plain => 0
  | .dark m => m
  | .bright m => m

/-- A run of one pixel at X = x. -/
def PixelMark.run (view : View) (x : Nat) (p : PixelMark) : Run :=
  { view := view, xStart := x, xEnd := x + 1, polarities := p.polarity, peak := p.magnitude, count := 1 }

/-- Form the maximal runs of adjacent pixels of one polarity from the marks at X = x onwards, with the run that is
growing (R30). -/
def formRuns (view : View) : Nat → Option Run → List PixelMark → List Run
  | _, r, [] => r.toList
  | x, r, p :: rest =>
    if p.polarity = 0 then r.toList ++ formRuns view (x + 1) none rest
    else
      match r with
      | none => formRuns view (x + 1) (some (p.run view x)) rest
      | some g =>
        if g.polarities = p.polarity then
          formRuns view (x + 1) (some { g with xEnd := x + 1, peak := max g.peak p.magnitude, count := g.count + 1 }) rest
        else g :: formRuns view (x + 1) (some (p.run view x)) rest

/-- The 32nd run extended over every later one (R31). -/
def mergeTail (first : Run) (later : List Run) : Run :=
  { first with
    xEnd := (later.map Run.xEnd).foldl max first.xEnd
    polarities := 0b11#2
    peak := (later.map Run.peak).foldl max first.peak
    count := first.count + (later.map Run.count).sum }

/-- A view keeps at most 32 runs (R31). -/
def limitRuns (runs : List Run) : List Run :=
  if Config.runCapacity < runs.length then
    match runs.drop (Config.runCapacity - 1) with
    | first :: later => runs.take (Config.runCapacity - 1) ++ [mergeTail first later]
    | [] => runs
  else runs

/-- The runs of a view that are kept under R30, before the limit of R31. -/
def keptRuns (view : View) (t : Thresholds) (minRun origin : Nat) (values background : List Nat) : List Run :=
  (formRuns view origin none (List.zipWith (markPixel t) values background)).filter fun r => decide (minRun ≤ r.count)

/-- The floor of the mean of some values; 0 of none (R43). -/
def meanOf (values : List Nat) : Nat := values.sum / values.length

end Sys2Proof.Machine
end

