-- ==== Sys2Proof/Machine/Tracker.lean ====
section
/-! DEFINITION. The Ribbon Tracker (chapter 1): the trigger count, the speed gate, ribbon edges, glass presence and the
width check. -/
namespace Sys2Proof.Machine

/-! ## The gantry position and the line triggers (sections 1.1 and 1.2) -/

/-- Replace the speed gate. -/
def setGate (s : State) (g : SpeedGate) : State := s.setRtk { s.rtk with gate := g }

/-- The number sent with the last trigger: K modulo 2^32 (R4). -/
def triggerNumber (s : State) : BitVec 32 := s.rtk.triggerCount.setWidth 32

/-- The gantry position has reached the next trigger point, trigger base + (K + 1) × pitch (R4). -/
def atTriggerPoint (s : State) : Bool :=
  s.sst.settings.isSome &&
  decide (s.rtk.gantry = s.rtk.triggerBase + (s.rtk.triggerCount + 1) * BitVec.ofNat 48 (linePitch s))

/-- Issue trigger K + 1 where its point is reached (R4). -/
def issueTrigger (s : State) : State :=
  if atTriggerPoint s then s.setRtk { s.rtk with triggerCount := s.rtk.triggerCount + 1 } else s

/-- Trigger numbering restarts at the gantry position, with count 0 (R3). -/
def restartTriggers (s : State) : State :=
  s.setRtk { s.rtk with triggerBase := s.rtk.gantry, triggerCount := 0 }

/-! ## The speed gate (section 1.3) -/

/-- The gate length of the line settings in force. -/
def gateLength (s : State) : Nat := (s.sst.settings.map LineSettings.gateLength).getD 1

/-- A gate phase begins: the gate counter holds 2^24 − gate length and the time counter 0 (R5). -/
def beginGate (s : State) : State :=
  setGate s { s.rtk.gate with phase := .gate, gateCounter := 0 - BitVec.ofNat 24 (gateLength s), timeCounter := 0, counted := false }

/-- The time counter has returned to 0 in a gate phase: STALL is due (R6). -/
def stallDue (s : State) : Bool :=
  decide (s.rtk.gate.phase = .gate) && s.rtk.gate.counted && decide (s.rtk.gate.timeCounter = 0)

/-- The gate counter is complete in a gate phase whose time has not run out: the phase ends (R5). -/
def gateEndDue (s : State) : Bool :=
  decide (s.rtk.gate.phase = .gate) && decide (s.rtk.gate.gateCounter = 0) && !stallDue s

/-- The time counter has passed to 0 in a slip phase: the phase ends by time (R7). -/
def slipEndDue (s : State) : Bool :=
  decide (s.rtk.gate.phase = .slip) && decide (s.rtk.gate.timeCounter = 0)

/-- The elapsed time T of a gate phase that ends now: 2^24 − time counter, or 1 before the first decrement (R5). -/
def gateTime (g : SpeedGate) : BitVec 24 := if g.counted then 0 - g.timeCounter else 1

/-- floor(gate length × 1,000,000 / T), saturating at 2^32 − 1 (R8). -/
def gateSpeed (length : Nat) (t : BitVec 24) : BitVec 32 :=
  BitVec.ofNat 32 (min (length * 1000000 / t.toNat) (2 ^ 32 - 1))

/-- The end of a gate phase (R5, R8): speed and held speed are published, the stalled flag is cleared, and the slip
phase begins with the time counter as it stands (R7). The leads follow the held speed, so both lists are tested (R142). -/
def endGate (s : State) : State :=
  let g := s.rtk.gate
  let t := gateTime g
  let v := gateSpeed (gateLength s) t
  testOutputs (setGate s
    { g with phase := .slip, gateCounter := 0, timeCounter := 0 - t, counted := false, elapsed := t, speed := v,
             heldSpeed := v, stalled := false })

/-- The first STALL of a stall is reported (R6). -/
def reportStall (s : State) : State :=
  tallyEvent (notify s .speedStall [(0, le 4 s.rtk.gate.heldSpeed.toNat)]) .speedStall 0 none

/-- STALL (R6): the speed becomes 0, a clear stalled flag is set and reported, and a new gate phase begins. -/
def doStall (s : State) : State :=
  let g := s.rtk.gate
  let s1 := setGate s { g with speed := 0, stalled := true }
  beginGate (if g.stalled then s1 else reportStall s1)

/-- The slip, in two bytes: −32,768 while it is unknown (R185). -/
def leSlip (slip : Option Int) : List Byte := leInt 2 (slip.getD (-32768))

/-- The slip alarm is raised; the notice is written if it was clear (R9). -/
def raiseSlipAlarm (s : State) : State :=
  let g := s.rtk.gate
  let s1 := setGate s { g with slipAlarm := true }
  if g.slipAlarm then s1 else notify s1 .slipAlarm [(0, leSlip g.slip)]

/-- The slip result of R9: (N_r − E) × 1000 / E toward zero, kept within −999 to 999. -/
def slipOf (pulses expected : Nat) : Int :=
  max (-999) (min 999 (Int.tdiv (((pulses : Int) - expected) * 1000) expected))

/-- The expected RLE count E (R9). -/
def expectedPulses (s : State) : Nat := gateLength s * (s.sst.settings.map LineSettings.rleRatio).getD 0 / 1000

/-- The slip phase ends by time (R7, R9). -/
def endSlip (s : State) : State :=
  let g := s.rtk.gate
  let v := slipOf g.gateCounter.toNat (expectedPulses s)
  let s1 := setGate s { g with slip := some v }
  if (s.sst.settings.map LineSettings.slipLimit).getD 0 < v.natAbs then
    beginGate (raiseSlipAlarm (tallyEvent s1 .slip (if 0 < v then 0 else 1) (some v.natAbs)))
  else beginGate (setGate s1 { s1.rtk.gate with slipAlarm := false })

/-- The gate counter is at 2^24 − 1 in a slip phase: one more RLE pulse overflows it (R7). -/
def slipFull (s : State) : Bool :=
  decide (s.rtk.gate.phase = .slip) && decide (s.rtk.gate.gateCounter = BitVec.allOnes 24)

/-- SLIP_OVER (R7): the slip is unknown, the alarm is raised, and a new gate phase begins. -/
def overflowSlip (s : State) : State :=
  let s1 := setGate s { s.rtk.gate with slip := none }
  beginGate (raiseSlipAlarm (tallyEvent s1 .slip 0 (some 999)))

/-- A phase end whose moment has come is worked before the next encoder step or pulse is counted, so that the step or
pulse falls into the phase it belongs to (R5, R6, R7; log entry 3). -/
def settleGate (s : State) : State :=
  if gateEndDue s then endGate s
  else if stallDue s then doStall s
  else if slipEndDue s then endSlip s
  else s

/-- A forward GWE step adds 1 to the gate counter in a gate phase (R5). -/
def countStep (s : State) : State :=
  match s.rtk.gate.phase with
  | .gate => setGate s { s.rtk.gate with gateCounter := s.rtk.gate.gateCounter + 1 }
  | _ => s

/-- An RLE pulse adds 1 to the gate counter in a slip phase; the pulse that overflows it is SLIP_OVER (R7). -/
def countPulse (s : State) : State :=
  if slipFull s then overflowSlip s
  else
    match s.rtk.gate.phase with
    | .slip => setGate s { s.rtk.gate with gateCounter := s.rtk.gate.gateCounter + 1 }
    | _ => s

/-- `n` microseconds at the speed gate: the time counter goes down in GATE and up in SLIP (R5, R7). -/
def SpeedGate.elapse (g : SpeedGate) (n : Nat) : SpeedGate :=
  match g.phase with
  | .stopped => g
  | .gate => { g with timeCounter := g.timeCounter - BitVec.ofNat 24 n, counted := g.counted || decide (n ≠ 0) }
  | .slip => { g with timeCounter := g.timeCounter + BitVec.ofNat 24 n }

/-- How many microseconds the gate phase still has until its time counter returns to 0 (R6). -/
def stallWait (g : SpeedGate) : Nat := if g.timeCounter = 0 then (if g.counted then 0 else 2 ^ 24) else g.timeCounter.toNat

/-- How many microseconds the slip phase still has until its time counter passes to 0 (R7). -/
def slipWait (g : SpeedGate) : Nat := (0 - g.timeCounter).toNat

/-! ## Ribbon edges (section 1.4) -/

def Side.other : Side → Side
  | .drive => .operator
  | .operator => .drive

def Tracker.side (t : Tracker) : Side → EdgeSide
  | .drive => t.drive
  | .operator => t.operator

def Tracker.setSide (t : Tracker) (side : Side) (v : EdgeSide) : Tracker :=
  match side with
  | .drive => { t with drive := v }
  | .operator => { t with operator := v }

/-- The edge lane of a side under the line settings in force. -/
def edgeLane (s : State) (side : Side) : Option LaneId :=
  s.sst.settings.map fun l => match side with
    | .drive => l.driveLane
    | .operator => l.operatorLane

/-- A lane serves a side. -/
def serves (s : State) (i : LaneId) (side : Side) : Bool := decide (edgeLane s side = some i)

/-- The first place in scan order where this pixel and the next seven all reach the edge level (R12). -/
def firstEight (level : Nat) : List Nat → Nat → Option Nat
  | [], _ => none
  | c :: rest, n =>
    if decide ((c :: rest.take 7).length = 8) && (c :: rest.take 7).all (fun v => decide (level ≤ v)) then some n
    else firstEight level rest (n + 1)

/-- The edge of a side in the corrected reflected values of a field [lo, hi), given in X order (R12). -/
def findEdge (side : Side) (level lo hi : Nat) (values : List Nat) : Option Nat :=
  match side with
  | .drive => (firstEight level values 0).map fun n => lo + n
  | .operator => (firstEight level values.reverse 0).map fun n => hi - n

/-- The filtered edge after a line (R13). An operator edge at a field end of 65,536 gives 1,048,576, beyond the bound that
section 1.4's table names; the model follows R12 and R13 (log entry 38). -/
def EdgeSide.update (e : EdgeSide) (filter : Nat) (edge : Option Nat) : EdgeSide :=
  match edge with
  | none => { e with found := false }
  | some x =>
    if e.found then
      { e with filtered := ((e.filtered : Int) + ((16 * x : Nat) - (e.filtered : Int)) / (2 ^ filter : Nat)).toNat }
    else { e with found := true, filtered := 16 * x }

/-- The results of lines after k (R14). -/
def resultsAfter (k : Nat) (l : List EdgeResult) : List EdgeResult := l.filter fun r => decide (k < r.line)

/-- Every pending result for line k or earlier leaves both lists (R14). -/
def dropThrough (s : State) (k : Nat) : State :=
  s.setRtk { s.rtk with drive := { s.rtk.drive with pending := resultsAfter k s.rtk.drive.pending },
                        operator := { s.rtk.operator with pending := resultsAfter k s.rtk.operator.pending } }

/-- A lane's next-line position has passed line k (R14). -/
def passedLine (s : State) (lane : Option LaneId) (k : Nat) : Bool :=
  match lane.bind (nextLine s) with
  | some y => decide (linePos s k < y)
  | none => false

/-- A pending result leaves when the other side's next-line position passes its line (R14). -/
def purgeEdges (s : State) : State :=
  let keep (other : Side) (l : List EdgeResult) : List EdgeResult :=
    l.filter fun r => !passedLine s (edgeLane s other) r.line
  s.setRtk { s.rtk with drive := { s.rtk.drive with pending := keep .operator s.rtk.drive.pending },
                        operator := { s.rtk.operator with pending := keep .drive s.rtk.operator.pending } }

/-- A result joins the end of its side's list; a full list first loses its oldest (R14). -/
def addPending (l : List EdgeResult) (r : EdgeResult) : List EdgeResult :=
  (if Config.edgePendingCapacity ≤ l.length then l.drop 1 else l) ++ [r]

/-- An edge lane leaves the inspecting states: both lists are emptied and any streak is closed (R14, R15, R38). -/
def edgeLaneLeaves (s : State) (i : LaneId) : State :=
  if serves s i .drive || serves s i .operator then
    s.setRtk { s.rtk with drive := { s.rtk.drive with pending := [] }, operator := { s.rtk.operator with pending := [] },
                          streak := none }
  else s

/-! ## The width check (R17, R18) -/

/-- An edge as a position (R13). -/
def EdgeResult.edge (r : EdgeResult) : Nat := r.filtered / 16

/-- A track after a check: violated when it was not and lies outside the margins, cleared when it was and lies inside
them with the hysteresis to spare (R17). -/
def checkTrack (margin hysteresis drive operator : Nat) (t : Track) (violated : Bool) : Bool :=
  if violated then
    !(decide (drive + margin + hysteresis ≤ t.lo) && decide (t.hi + margin + hysteresis ≤ operator))
  else decide (t.lo < drive + margin) || decide (operator < t.hi + margin)

/-- The violated tracks of a set after a check. -/
def checkTracks (set : ProductSet) (drive operator : Nat) (was : TrackSet) : TrackSet :=
  BitVec.ofNat 4 (bitsOf (set.tracks.zipIdx.map fun t =>
    checkTrack set.widthMargin set.widthHysteresis drive operator t.1 (was.getLsbD t.2)))

/-- Give the Coverage Unit a changed WIDTH set; equal sets are not given (R18). -/
def giveWidth (s : State) (old new : TrackSet) (position : Pos) : State :=
  if new = old then s else changeCause s (.width new) position none

/-- The check made at an observation in ARMED (R17); every track begins it not violated when the set in force differs
from that of the observation before. -/
def checkWidth (s : State) (h : HeldSet) (d o : EdgeResult) (position : Pos) : State :=
  let old := s.rtk.violated
  let was := if s.rtk.observedSet = some h.serial then old else 0
  let new := checkTracks h.set d.edge o.edge was
  giveWidth (s.setRtk { s.rtk with violated := new, checkedSet := some h.serial }) old new position

/-! ## Presence (R15, R16) -/

/-- The streak after an observation: present ones make one in DISARMED, absent ones in ARMED (R15). -/
def nextStreak (presence : Presence) (present : Bool) (streak : Option Pos) (position : Pos) : Option Pos :=
  if present = decide (presence = .disarmed) then some (streak.getD position) else none

/-- The presence state changes to ARMED (R16): NO_GLASS becomes empty from the greatest next-line position among the
inspecting lanes. A boundary the change lands beyond is passed under the old state (R79). -/
def becomeArmed (s : State) : State :=
  let p := (greatestPos ((inspectingLanes s).filterMap (nextLine s))).getD (gantryPos s)
  let s1 := passForChange s (.noGlass false) (max p (closedPosition s))
  let s2 := noteLevels (s1.setRtk { s1.rtk with presence := .armed, streak := none })
  changeCause s2 (.noGlass false) p none

/-- The presence state changes to DISARMED (R16, R17, R18): NO_GLASS becomes all tracks from the least next-line
position, and then every track becomes not violated. -/
def becomeDisarmed (s : State) : State :=
  let p := (leastPos ((inspectingLanes s).filterMap (nextLine s))).getD (gantryPos s)
  let s1 := passForChange s (.noGlass true) (max p (closedPosition s))
  let s2 := noteLevels (s1.setRtk { s1.rtk with presence := .disarmed, streak := none })
  let s3 := changeCause s2 (.noGlass true) p none
  giveWidth (s3.setRtk { s3.rtk with violated := 0 }) s.rtk.violated 0 p

/-- The streak rules and the change of state they lead to (R15). -/
def judgePresence (s : State) (h : HeldSet) (present : Bool) (position : Pos) : State :=
  let streak := nextStreak s.rtk.presence present s.rtk.streak position
  let s1 := s.setRtk { s.rtk with streak := streak }
  match streak with
  | none => s1
  | some start =>
    let run := position + linePitch s - start
    match s.rtk.presence with
    | .disarmed => if (h.set.armLength : Int) ≤ run then becomeArmed s1 else s1
    | .armed => if (h.set.absenceLength : Int) ≤ run then becomeDisarmed s1 else s1

/-- An edge observation for line k (R14): the width check in ARMED, then the presence rules. -/
def observe (s : State) (h : HeldSet) (k : Nat) (d o : EdgeResult) : State :=
  let position := linePos s k
  let present := d.found && o.found && decide (d.edge + h.set.minWidth ≤ o.edge)
  let s1 := match s.rtk.presence with
    | .armed => checkWidth s h d o position
    | .disarmed => s
  judgePresence (s1.setRtk { s1.rtk with observedSet := some h.serial }) h present position

/-! ## Searching a line (R12 to R14) -/

/-- A side's result for a line. -/
def EdgeSide.result (e : EdgeSide) (k : Nat) : EdgeResult := { line := k, found := e.found, filtered := e.filtered }

/-- Search and filter one side in a line (R12, R13). -/
def searchSide (s : State) (h : HeldSet) (i : LaneId) (values : List Nat) (side : Side) : State :=
  let f := (geometry s i).field
  let e := findEdge side h.set.edgeLevel f.1 f.2 values
  s.setRtk (s.rtk.setSide side ((s.rtk.side side).update h.set.edgeFilter e))

/-- Form the observation of line k from the two sides' results for it (R14). -/
def observeFrom (s : State) (h : HeldSet) (k : Nat) (side : Side) (own other : EdgeResult) : State :=
  match side with
  | .drive => observe (dropThrough s k) h k own other
  | .operator => observe (dropThrough s k) h k other own

/-- Pair a side's result for line k with the other side's (R14). -/
def pairSide (s : State) (h : HeldSet) (k : Nat) (side : Side) : State :=
  let own := (s.rtk.side side).result k
  match (s.rtk.side side.other).pending.find? fun r => decide (r.line = k) with
  | some other => observeFrom s h k side own other
  | none =>
    if passedLine s (edgeLane s side.other) k then s
    else s.setRtk (s.rtk.setSide side { s.rtk.side side with pending := addPending (s.rtk.side side).pending own })

/-- The tracker's part of the processing of a line by an edge lane, from the corrected reflected values in X order
(stage 4 of R32). One lane named for both sides forms the observation at once (R14). -/
def searchLine (s : State) (h : HeldSet) (i : LaneId) (k : Nat) (values : List Nat) : State :=
  match serves s i .drive, serves s i .operator with
  | true, true =>
    let s1 := searchSide (searchSide s h i values .drive) h i values .operator
    observeFrom s1 h k .drive (s1.rtk.drive.result k) (s1.rtk.operator.result k)
  | true, false => pairSide (searchSide s h i values .drive) h k .drive
  | false, true => pairSide (searchSide s h i values .operator) h k .operator
  | false, false => s

/-- The tracker at a taking of line settings: numbering restarts and trigger 0 is issued at the trigger base (R3), a new
gate phase begins (R10), and edge, presence and width states return to their starting values (R15, R17). -/
def settingsTracker (s : State) : State :=
  let s1 := beginGate (restartTriggers s)
  noteLevels (s1.setRtk
    { s1.rtk with drive := EdgeSide.reset, operator := EdgeSide.reset, presence := .disarmed, streak := none,
                  violated := 0, observedSet := none, checkedSet := none })

end Sys2Proof.Machine
end

