-- ==== Sys2Proof/Machine/Lanes.lean ====
section
/-! DEFINITION. The Lane Receivers (chapter 2): line numbers and completion, the processing of a line, the lane states,
the error window, gaps and the level search. -/
namespace Sys2Proof.Machine

/-- Change one lane. -/
def modifyLane (s : State) (i : LaneId) (f : Lane → Lane) : State := s.setLane i (f (s.lane i))

/-- The code of a lane state (section 11.3). -/
def LaneState.code : LaneState → Nat
  | .off => 0
  | .waitSignal => 1
  | .settling => 2
  | .tuning => 3
  | .live => 4
  | .degraded => 5
  | .lost => 6
  | .fault => 7

/-- Give a lane its new record. A change of state writes a LANE_STATE notice with the next-line position after the change
and changes the LANE_NOT_INSPECTING level (R33); the closed position follows (R68). -/
def enterLaneState (s : State) (i : LaneId) (l : Lane) : State :=
  let old := (s.lane i).state
  let s1 := s.setLane i l
  if l.state = old then s1
  else
    followClosed (noteLevels (notify s1 .laneState
      [(0, le 1 i.val), (1, le 1 old.code), (2, le 1 l.state.code), (8, lePos (nextLine s1 i))]))

/-! ## Leaving the inspecting states (R38) -/

/-- What a lane discards as it leaves the inspecting states: the line in assembly, the bad run, the error window and the
background (R38). -/
def Lane.departed (l : Lane) : Lane :=
  { l with assembly := LineInAssembly.empty, badRun := none, window := none, background := none }

/-- The departure of an inspecting lane, up to its change of state (R38): its open blobs close TRUNCATED, its change of
coverage is given with its next-line position as it stood, and an edge lane empties the edge lists. A lane that is not
inspecting departs from nothing. -/
def leaveInspecting (s : State) (i : LaneId) : State :=
  if (s.lane i).state.inspecting then
    let p := (nextLine s i).getD (gantryPos s)
    let s1 := truncateLane s i
    let others := (inspectingLanes s1).filter fun j => decide (j ≠ i)
    edgeLaneLeaves (changeCause s1 (.lane others) p (some i)) i
  else s

/-- A stale lane goes to LOST (R36). -/
def loseLane (s : State) (i : LaneId) : State :=
  let s1 := leaveInspecting s i
  purgeEdges (enterLaneState s1 i { (s1.lane i).departed with state := .lost, expected := none, tune := none })

/-- A lane ceases to be enabled and goes to OFF (R20). -/
def disableLane (s : State) (i : LaneId) : State :=
  let s1 := leaveInspecting s i
  enterLaneState s1 i
    { (s1.lane i).departed with state := .off, expected := none, lastAcceptance := none, settleStart := none,
                                tune := none, tunePending := false, setSeen := none }

/-- A lane becomes enabled and goes to WAIT_SIGNAL (R20). -/
def enableLane (s : State) (i : LaneId) : State := enterLaneState s i { s.lane i with state := .waitSignal }

/-- Bring a lane into line with whether it is enabled (R20). -/
def applyEnable (s : State) (i : LaneId) : State :=
  if enabled s i then (if (s.lane i).state = .off then enableLane s i else s)
  else (if (s.lane i).state = .off then s else disableLane s i)

/-- At a taking of line settings each lane is treated as disabled and then enters WAIT_SIGNAL if the new settings and
the taken mask enable it (R21). -/
def settingsLane (s : State) (i : LaneId) : State :=
  let s1 := if (s.lane i).state = .off then s else disableLane s i
  if enabled s1 i then enableLane s1 i else s1

/-! ## The level search (section 2.6) -/

/-- A tune's state at its start: the trial code at the gain floor and the dwell at the lane's expected line (R42). -/
def startTune (s : State) (l : Lane) : Tune :=
  { trial := (s.sst.settings.map LineSettings.gainFloor).getD 0, passes := 0, dwellStart := l.expected.getD 0,
    outside := 0, judged := false }

/-- A tune begins, or begins again (R42). -/
def beginTune (s : State) (i : LaneId) : State :=
  let leaving := (s.lane i).state.inspecting
  let s1 := leaveInspecting s i
  let l := if leaving then (s1.lane i).departed else s1.lane i
  enterLaneState s1 i { l with state := .tuning, tune := some (startTune s1 l), tunePending := false }

/-- A tune request, handled according to the lane state (R42). -/
def requestTune (s : State) (i : LaneId) : State :=
  match (s.lane i).state with
  | .off => s
  | .waitSignal => modifyLane s i fun l => { l with tunePending := true }
  | .settling => modifyLane s i fun l => { l with tunePending := true }
  | .lost => modifyLane s i fun l => { l with tunePending := true }
  | .live => beginTune s i
  | .degraded => beginTune s i
  | .tuning => beginTune s i
  | .fault => beginTune s i

/-- The first line whose position is at or after y (R37). -/
def firstLineFrom (s : State) (y : Pos) : Nat :=
  ((y - s.rtk.triggerBase.toNat + (linePitch s - 1 : Nat)) / linePitch s).toNat

/-- Entry to LIVE (R37): the expected line moves forward to the closed position, the error window starts afresh, the
background is void, and the change of coverage is given with the lane's next-line position. -/
def enterLive (s : State) (i : LaneId) : State :=
  let l := s.lane i
  let e := l.expected.getD 0
  let e' := max e (firstLineFrom s (closedPosition s))
  let l1 : Lane :=
    { l with expected := some e', assembly := if e' = e then l.assembly else LineInAssembly.empty, badRun := none,
             window := some { start := e', count := 0 }, background := none, tune := none }
  let s1 := s.setLane i l1
  let s2 := changeCause s1 (.lane (i :: inspectingLanes s1)) ((nextLine s1 i).getD (gantryPos s)) (some i)
  purgeEdges (enterLaneState s2 i { s2.lane i with state := .live })

/-- A dwell's code is accepted (R43): G becomes the trial code, TUNE_DONE is written and the lane enters LIVE. -/
def acceptTune (s : State) (i : LaneId) (t : Tune) : State :=
  let s1 := modifyLane s i fun l => { l with gain := t.trial }
  enterLive (notify s1 .tuneDone [(0, le 1 i.val), (1, le 1 t.trial), (2, le 1 t.passes)]) i

/-- The search has failed: FAULT, with TUNE_FAILED (R44). -/
def failTune (s : State) (i : LaneId) (t : Tune) : State :=
  let s1 := enterLaneState s i { s.lane i with state := .fault, tune := none }
  notify s1 .tuneFailed [(0, le 1 i.val), (1, le 1 t.trial)]

/-- A dwell's code fails: the next code, the next pass, or the end of the search (R44). -/
def failCode (s : State) (i : LaneId) (l : LineSettings) (t : Tune) : State :=
  let next : Tune := { t with trial := t.trial + l.gainStep, outside := 0, judged := false, dwellStart := t.dwellStart + l.dwell }
  if next.trial ≤ l.gainCeiling then modifyLane s i fun x => { x with tune := some next }
  else if t.passes + 1 < 3 then
    modifyLane s i fun x => { x with tune := some { next with trial := l.gainFloor, passes := t.passes + 1 } }
  else failTune s i t

/-- A dwell is judged when the expected line has moved past its last line (R43). -/
def judgeDwell (s : State) (i : LaneId) : State :=
  match s.sst.settings, (s.lane i).state, (s.lane i).tune, (s.lane i).expected with
  | some l, .tuning, some t, some e =>
    if t.dwellStart + l.dwell ≤ e then
      if decide (t.outside ≤ l.dwellTolerance) && t.judged then acceptTune s i t else failCode s i l t
    else s
  | _, _, _, _ => s

/-- Enter the line mean of a complete line in the tune: lines of the evaluation half are judged (R43). -/
def Tune.evaluate (t : Tune) (l : LineSettings) (k mean : Nat) : Tune :=
  if t.dwellStart + l.dwell / 2 ≤ k ∧ k < t.dwellStart + l.dwell then
    { t with judged := true
             outside := if l.bandLow ≤ mean ∧ mean ≤ l.bandHigh then t.outside else t.outside + 1 }
  else t

/-! ## Settling and staleness (R35, R36) -/

/-- Settling ends when the settle length has passed and a set is in force at the next-line position (R35). -/
def testSettle (s : State) (i : LaneId) : State :=
  let l := s.lane i
  match s.sst.settings, l.state, l.settleStart, (nextLine s i).bind (setAt s) with
  | some ls, .settling, some start, some h =>
    if (ls.settleLength : Int) ≤ gantryPos s - start then
      let s1 := modifyLane s i fun x => { x with setSeen := some h.serial }
      if ls.tuneOnSettle || l.tunePending || h.set.retune then beginTune s1 i
      else enterLive (modifyLane s1 i fun x => { x with gain := h.set.lanes[i].gain }) i
    else s
  | _, _, _, _ => s

/-- The states in which staleness is tested (R36). -/
def LaneState.mayStale : LaneState → Bool
  | .settling => true
  | .tuning => true
  | .live => true
  | .degraded => true
  | _ => false

/-- The staleness test at an advance of the gantry position (R36). -/
def testStale (s : State) (i : LaneId) : State :=
  match s.sst.settings, (s.lane i).lastAcceptance with
  | some ls, some y =>
    if (s.lane i).state.mayStale && decide ((ls.staleDistance : Int) ≤ gantryPos s - y) then loseLane s i else s
  | _, _ => s

/-- A lane at an advance of the gantry position: staleness first, then settling (R35, R36). -/
def advanceLane (s : State) (i : LaneId) : State := testSettle (testStale s i) i

/-! ## The processing of a line (R32) -/

/-- The corrected values of a view's pixels, in increasing X (R27). -/
def corrected (s : State) (i : LaneId) (offset : Int) (gain : Nat) (e : ViewEntry) : List Nat :=
  match e with
  | .pixels values => (inX (geometry s i) values).map (correctPixel offset gain)
  | _ => []

/-- The corrected values of a line's three views under a set (stage 1 of R32). -/
def correctedLine (s : State) (h : HeldSet) (i : LaneId) : PerView (List Nat) :=
  let l := s.lane i
  let value (v : View) : List Nat := corrected s i (h.set.lanes[i].offsets.get v) l.gain (l.assembly.views.get v)
  { transmitted := value .transmitted, reflected := value .reflected, scattered := value .scattered }

/-- The background after a line: set on the first line after entry to LIVE, else updated (stage 2 of R32, R28). -/
def nextBackground (h : HeldSet) (old : Option (PerView (List Nat))) (line : PerView (List Nat)) : PerView (List Nat) :=
  let value (v : View) : List Nat :=
    match old with
    | none => (line.get v).map fun c => 64 * c
    | some b => List.zipWith (updateBackground (h.set.thresholds.get v) h.set.filterShift) (line.get v) (b.get v)
  { transmitted := value .transmitted, reflected := value .reflected, scattered := value .scattered }

/-- The runs kept in a view before the limit; none on the first line after entry to LIVE (R28, R30). -/
def lineRuns (h : HeldSet) (origin : Nat) (old : Option (PerView (List Nat))) (line : PerView (List Nat)) (v : View) :
    List Run :=
  match old with
  | none => []
  | some b => keptRuns v (h.set.thresholds.get v) h.set.minRun origin (line.get v) (b.get v)

/-- Each view with more than 32 runs raises a RUN_OVERFLOW (R31). -/
def overflowEvents (s : State) (i : LaneId) (views : List (List Run)) : State :=
  (views.filter fun r => decide (Config.runCapacity < r.length)).foldl (fun t _ => tallyEvent t .runOverflow i.val none) s

/-- A complete line of an inspecting lane where a set is in force: stages 1 to 5 of R32. -/
def processLine (s : State) (h : HeldSet) (i : LaneId) (k : Nat) : State :=
  let line := correctedLine s h i
  let old := (s.lane i).background
  let views := [View.transmitted, .reflected, .scattered].map (lineRuns h (geometry s i).origin old line)
  let s1 := modifyLane s i fun l => { l with background := some (nextBackground h old line) }
  let s2 := searchLine (overflowEvents s1 i views) h i k line.reflected
  handOver s2 i k (if s2.rtk.presence = .armed then views.flatMap limitRuns else [])

/-- A lane meets the set in force at a line it processes: the set seen becomes its serial, and without the retune flag G
becomes its gain code (stage 6 of R32, R39). -/
def adoptSet (s : State) (h : HeldSet) (i : LaneId) : State :=
  modifyLane s i fun l =>
    if l.setSeen = some h.serial then l
    else { l with setSeen := some h.serial, gain := if h.set.retune then l.gain else h.set.lanes[i].gain }

/-- The states in which a lane follows product changes (R39). -/
def LaneState.followsSets : LaneState → Bool
  | .live => true
  | .degraded => true
  | .tuning => true
  | .fault => true
  | _ => false

/-- A complete line k brings the lane a new set with the retune flag (R39). -/
def retuneAt (s : State) (i : LaneId) (k : Nat) : Bool :=
  (s.lane i).state.followsSets &&
  (match setAt s (linePos s k) with
    | some h => h.set.retune && decide ((s.lane i).setSeen ≠ some h.serial)
    | none => false)

/-- A bad run ends at a complete line; one longer than the gap tolerance is given as a GAP first (R41). -/
def endBadRun (s : State) (i : LaneId) (k : Nat) : State :=
  match (s.lane i).badRun with
  | none => s
  | some r =>
    let tolerance := (s.sst.settings.map LineSettings.gapTolerance).getD 0
    let s1 := if tolerance < r.length then giveGap s i (linePos s r.first) (linePos s k) else s
    modifyLane s1 i fun l => { l with badRun := none }

/-- What a complete line does in the lane's state (R32, R27, R43). A line where no set is in force counts for acceptance
and numbering and is handed over without runs. -/
def completeLine (s : State) (i : LaneId) (k : Nat) : State :=
  let set := setAt s (linePos s k)
  let s1 :=
    if (s.lane i).state.inspecting then
      let s0 := endBadRun s i k
      match set with
      | some h => processLine s0 h i k
      | none => handOver s0 i k []
    else
      match (s.lane i).state, (s.lane i).tune, set, s.sst.settings with
      | .tuning, some t, some h, some ls =>
        let l := s.lane i
        let mean := meanOf (corrected s i (h.set.lanes[i].offsets.transmitted) t.trial l.assembly.views.transmitted)
        modifyLane s i fun l => { l with tune := some (t.evaluate ls k mean) }
      | _, _, _, _ => s
  let s2 := match set with
    | some h => if (s.lane i).state.followsSets then adoptSet s1 h i else s1
    | none => s1
  modifyLane s2 i fun l => { l with lastAcceptance := some (gantryPos s2) }

/-! ## Dropped and missing lines (R26, R40, R41) -/

/-- A bad run opens at line k or grows by it (R41). -/
def extendBadRun (k : Nat) : Option BadRun → BadRun
  | none => { first := k, length := 1 }
  | some r => { r with length := r.length + 1 }

/-- A dropped or missing line of an inspecting lane: it counts in the error window and the bad run and is handed over
without runs (R26). -/
def loseLine (s : State) (i : LaneId) (k : Nat) : State :=
  let s1 := modifyLane s i fun l =>
    { l with window := l.window.map fun w => { w with count := w.count + 1 }, badRun := some (extendBadRun k l.badRun) }
  handOver s1 i k []

/-- The state an error window's judgement leads to (R40). -/
def judgedState (l : LineSettings) (state : LaneState) (count : Nat) : LaneState :=
  match state with
  | .live => if l.errorThreshold < count then .degraded else .live
  | .degraded => if count ≤ l.recoverThreshold then .live else .degraded
  | other => other

/-- An error window is judged when the expected line has moved past its last line, and the next begins (R40; log entry
41). -/
def judgeWindow (s : State) (i : LaneId) : State :=
  let l := s.lane i
  match s.sst.settings, l.window, l.expected with
  | some ls, some w, some e =>
    if w.start + ls.errorWindow ≤ e then
      enterLaneState s i { l with state := judgedState ls l.state w.count, window := some { start := w.start + ls.errorWindow, count := 0 } }
    else s
  | _, _, _ => s

/-! ## Closing lines (R25) -/

/-- How a line closes. -/
inductive LineFate where
  | complete
  | dropped
  | missing
  deriving DecidableEq, Repr

/-- What a line's close does before the expected line moves past it (R26). -/
def workLine (s : State) (i : LaneId) (k : Nat) (fate : LineFate) : State :=
  match fate with
  | .complete => completeLine s i k
  | .dropped =>
    if (s.lane i).state.inspecting then tallyEvent (loseLine s i k) .lineDropped i.val none else s
  | .missing => if (s.lane i).state.inspecting then loseLine s i k else s

/-- The expected line moves past line k, leaving an empty line in assembly (R26). -/
def passLine (s : State) (i : LaneId) (k : Nat) : State :=
  followClosed (purgeEdges (modifyLane s i fun l => { l with expected := some (k + 1), assembly := LineInAssembly.empty }))

/-- The expected line closes (R25, R26): its work, the move past it, the judgements that the move brings, a retune it
brought (R39), and the settle test of a completed line (R35). -/
def closeLine (s : State) (i : LaneId) (fate : LineFate) : State :=
  match (s.lane i).expected with
  | none => s
  | some k =>
    let retune := decide (fate = .complete) && retuneAt s i k
    let s1 := judgeWindow (passLine (workLine s i k fate) i k) i
    let s2 := judgeDwell (if retune then requestTune s1 i else s1) i
    if fate = .complete then testSettle s2 i else s2

/-- Close lines as missing until the expected line reaches `target`, counting those closed while inspecting. -/
def closeMissing (i : LaneId) (target : Nat) : Nat → State × Nat → State × Nat
  | 0, r => r
  | fuel + 1, r =>
    match (r.1.lane i).expected with
    | some e =>
      if e < target then
        closeMissing i target fuel (closeLine r.1 i .missing, if (r.1.lane i).state.inspecting then r.2 + 1 else r.2)
      else r
    | none => r

/-- The line in assembly is empty: no view seen and no spoilt flag (R25). -/
def LineInAssembly.isEmpty (a : LineInAssembly) : Bool :=
  !a.spoilt && decide (a.views.transmitted = .notSeen) && decide (a.views.reflected = .notSeen) &&
  decide (a.views.scattered = .notSeen)

/-- A packet `d` lines ahead of the expected line closes the lines before its own: the expected line as dropped or
missing, the rest as missing (R25). The missing ones raise one LINES_MISSING event (R26). -/
def closeUpTo (s : State) (i : LaneId) (target d : Nat) : State :=
  let first := !(s.lane i).assembly.isEmpty
  let r := if first then closeMissing i target (d - 1) (closeLine s i .dropped, 0) else closeMissing i target d (s, 0)
  if 0 < r.2 then tallyEvent r.1 .linesMissing i.val (some r.2) else r.1

/-! ## Packets (R22 to R25) -/

/-- Count a packet with a header error. -/
def countHeaderError (s : State) (i : LaneId) : State :=
  modifyLane s i fun l => { l with headerErrors := l.headerErrors + 1 }

/-- Count a packet with a payload error. -/
def countPayloadError (s : State) (i : LaneId) : State :=
  modifyLane s i fun l => { l with payloadErrors := l.payloadErrors + 1 }

/-- Count a stale packet. -/
def countStale (s : State) (i : LaneId) : State :=
  modifyLane s i fun l => { l with stalePackets := l.stalePackets + 1 }

/-- A header error in a state that follows the numbering spoils the line in assembly (R25). -/
def spoilLine (s : State) (i : LaneId) : State :=
  modifyLane s i fun l => { l with assembly := { l.assembly with spoilt := true } }

/-- The states that follow the numbering (R22). -/
def LaneState.follows : LaneState → Bool
  | .settling => true
  | .tuning => true
  | .live => true
  | .degraded => true
  | .fault => true
  | _ => false

/-- The entry a packet makes for its view. -/
def viewEntry (pixels : Option (List Nat)) : ViewEntry :=
  match pixels with
  | some values => .pixels values
  | none => .spoilt

/-- The line in assembly with a packet's view entered; a payload error sets the spoilt flag (R25). -/
def LineInAssembly.enter (a : LineInAssembly) (v : View) (pixels : Option (List Nat)) : LineInAssembly :=
  { views := a.views.set v (viewEntry pixels), spoilt := a.spoilt || pixels.isNone }

/-- All three views have been seen. -/
def LineInAssembly.allSeen (a : LineInAssembly) : Bool :=
  decide (a.views.transmitted ≠ .notSeen) && decide (a.views.reflected ≠ .notSeen) &&
  decide (a.views.scattered ≠ .notSeen)

/-- A packet of the expected line (R25): a view seen already is stale; the third view closes the line. -/
def enterView (s : State) (i : LaneId) (v : View) (pixels : Option (List Nat)) : State :=
  let a := (s.lane i).assembly
  if a.views.get v ≠ .notSeen then countStale s i
  else
    let a' := a.enter v pixels
    let s1 := modifyLane s i fun l => { l with assembly := a' }
    if a'.allSeen then closeLine s1 i (if a'.spoilt then .dropped else .complete) else s1

/-- A packet's line number read against the expected line: the signed difference in (−2^31, 2^31] (R24). -/
def lineDifference (n e : Nat) : Int :=
  let x : Nat := (n + 2 ^ 32 - e % 2 ^ 32) % 2 ^ 32
  if x ≤ 2 ^ 31 then (x : Int) else (x : Int) - (2 ^ 32 : Nat)

/-- A packet with a trusted header at a lane that follows the numbering (R24, R25). Where the lines it closes bring the
lane into LIVE and R37 moves the expected line beyond the packet's own, the packet is stale (log entry 40). -/
def followPacket (s : State) (i : LaneId) (e n : Nat) (v : View) (pixels : Option (List Nat)) : State :=
  let d := lineDifference n e
  let counted := if pixels.isNone then countPayloadError s i else s
  if d < 0 then countStale counted i
  else if (s.rtk.triggerCount.toNat : Int) < e + d then spoilLine (countHeaderError s i) i
  else if d = 0 then enterView counted i v pixels
  else
    let target := e + d.toNat
    let s1 := closeUpTo counted i target d.toNat
    if (s1.lane i).expected = some target then enterView s1 i v pixels else countStale s1 i

/-- A valid packet at a lane in WAIT_SIGNAL or LOST acquires the numbering (R23): it names the latest trigger issued with
its number. -/
def acquire (s : State) (i : LaneId) (n : Nat) (v : View) (pixels : List Nat) : State :=
  let last := s.rtk.triggerCount.toNat
  let back := (last + 2 ^ 32 - n % 2 ^ 32) % 2 ^ 32
  if s.sst.settings.isNone || decide (last < back) then countStale s i
  else
    let l := s.lane i
    purgeEdges (enterLaneState s i
      { l with state := .settling, expected := some (last - back), assembly := LineInAssembly.empty.enter v (some pixels),
               lastAcceptance := some (gantryPos s), settleStart := some (gantryPos s) })

/-- The arrival of a packet at a lane receiver (R22); a lane in OFF drops it (R20). -/
def receivePacket (s : State) (i : LaneId) (bytes : List Byte) : State :=
  let l := s.lane i
  if l.state = .off then s
  else
    match checkPacket i (geometry s i).pixels bytes with
    | .headerError =>
      if l.state.follows then spoilLine (countHeaderError s i) i else countHeaderError s i
    | .trusted n v pixels =>
      if l.state.follows then
        match l.expected with
        | some e => followPacket s i e n v pixels
        | none => s
      else
        match pixels with
        | some values => acquire s i n v values
        | none => countPayloadError s i

/-! ## The lane section (R20, R42) -/

/-- The lane section: the enable mask is applied to every lane, and the tune requests are handled after it. Within each
the lanes are taken in increasing number, which the chapter leaves open (log entry 39). -/
def takeLaneSection (s : State) (mask tune : BitVec 12) : State :=
  let s1 := allLanes.foldl applyEnable (s.setLaneMask mask)
  (allLanes.filter fun (i : LaneId) => tune.getLsbD i.val).foldl requestTune s1

end Sys2Proof.Machine
end

