-- ==== Sys2Proof/Machine/Grader.lean ====
section
/-! DEFINITION. The Plate Grader (chapter 5): membership and zones, points, counts, overrides and the plate result. It
holds nothing between requests (R84). -/
namespace Sys2Proof.Machine

/-! ## Ranks -/

/-- A grade's rank (chapter 5). -/
def Grade.rank : Grade → Nat
  | .a => 1
  | .b => 2
  | .c => 3
  | .unverified => 4
  | .reject => 5
  | .short => 6

/-- The worse of two grades. -/
def Grade.worse (g h : Grade) : Grade := if g.rank < h.rank then h else g

/-! ## Membership and zones (R85 to R88) -/

/-- The plate of a request: a track's X interval over a Y extent (R85). -/
structure Rectangle where
  xLo : Nat
  xHi : Nat
  yStart : Pos
  yEnd : Pos
  deriving DecidableEq, Repr

/-- A flaw is a member when its extents intersect the plate's (R85). -/
def Rectangle.holds (r : Rectangle) (f : Flaw) : Bool :=
  decide (f.xMin < r.xHi) && decide (r.xLo < f.xEnd) && decide (f.yStart < r.yEnd) && decide (r.yStart < f.yEnd)

/-- The members of a plate, in Flaw Map order (R86). -/
def membersOf (s : State) (r : Rectangle) : List MapEntry := s.fas.map.filter fun e => r.holds e.flaw

/-- A flaw's zone distance in a plate (R87). -/
def zoneDistance (r : Rectangle) (f : Flaw) : Int :=
  let xc : Int := ((f.xMin + f.xEnd) / 2 : Nat)
  let yc : Int := (f.yStart + f.yEnd) / 2
  min (min (xc - r.xLo) (r.xHi - 1 - xc)) (min (yc - r.yStart) (r.yEnd - 1 - yc))

/-- A flaw lies in the edge zone of a plate (R87). -/
def inEdgeZone (zoneWidth : Nat) (r : Rectangle) (f : Flaw) : Bool := decide (zoneDistance r f < zoneWidth)

/-- The row of a class (R88). -/
def ProductSet.row (p : ProductSet) (c : Nat) : GradingRow := (vecList p.rows).getD c default

/-! ## Points (R89 to R91) -/

/-- The ramp range of each ramp range code (section 5.3). -/
def rampRanges : List Nat := [0, 8, 16, 24, 32, 48, 64, 96, 128, 192, 256, 384, 512, 768, 1024, 2048]

/-- The range a row's code selects. -/
def GradingRow.range (g : GradingRow) : Nat := rampRanges.getD g.rampCode 0

/-- A flaw's points, from its size and its class's row (R89). -/
def flawPoints (g : GradingRow) (size : Nat) : Nat :=
  if size < g.ignoreSize then 0
  else if g.ignoreSize + g.range ≤ size then g.peak
  else g.base + (g.peak - g.base) * (size - g.ignoreSize) / g.range

/-- A member's weighted points (R90). -/
def weightedPoints (p : ProductSet) (r : Rectangle) (f : Flaw) : Nat :=
  let g := p.row f.flawClass
  let points := flawPoints g f.size
  if inEdgeZone p.zoneWidth r f then points * g.edgeWeight / 16 else points

/-- A plate's points (R91). -/
def platePoints (p : ProductSet) (r : Rectangle) (members : List MapEntry) : Nat :=
  min ((members.map fun e => weightedPoints p r e.flaw).sum) 65535

/-- The points grade (R92). -/
def pointsGrade (p : ProductSet) (points : Nat) : Grade :=
  if points ≤ p.pointsA then .a else if points ≤ p.pointsB then .b else if points ≤ p.pointsC then .c else .reject

/-! ## Counts (R93, R94) -/

/-- The sixteen class counts (R93). -/
def classCounts (members : List MapEntry) : List Nat :=
  (List.range 16).map fun c => min (members.countP fun e => decide (e.flaw.flawClass = c)) 255

/-- A class count holds a limit; 255 is no limit (R94). -/
def holdsLimit (count limit : Nat) : Bool := decide (limit = 255) || decide (count ≤ limit)

/-- The plate holds a grade: every class count holds that grade's limit (R94). -/
def holdsGrade (p : ProductSet) (counts : List Nat) (limit : GradingRow → Nat) : Bool :=
  (List.zip counts (vecList p.rows)).all fun x => holdsLimit x.1 (limit x.2)

/-- The counts grade (R94). -/
def countsGrade (p : ProductSet) (counts : List Nat) : Grade :=
  if holdsGrade p counts GradingRow.limitA then .a
  else if holdsGrade p counts GradingRow.limitB then .b
  else if holdsGrade p counts GradingRow.limitC then .c
  else .reject

/-! ## Overrides and the result (R95 to R101) -/

/-- The absolute override applies (R95). -/
def absoluteApplies (p : ProductSet) (members : List MapEntry) : Bool :=
  members.any fun e =>
    let a := (p.row e.flaw.flawClass).absolute
    decide (a ≠ 0) && decide (a ≤ e.flaw.size)

/-- The coverage override's grade (R96). -/
def coverageGrade : CoverageAnswer → Option Grade
  | .clear => none
  | .blind => some .unverified
  | .width => some .short

/-- The final grade: the worst of the two grades and the overrides that apply (R97). -/
def finalGrade (points counts : Grade) (absolute : Bool) (coverage : CoverageAnswer) : Grade :=
  ((points.worse counts).worse (if absolute then .reject else .a)).worse ((coverageGrade coverage).getD .a)

/-- The grade causes (R98). -/
def gradeCauses (points counts : Grade) (absolute : Bool) (coverage : CoverageAnswer) : GradeCauseSet :=
  let final := finalGrade points counts absolute coverage
  BitVec.ofNat 5 (bitsOf
    [decide (points = final), decide (counts = final), absolute && decide (final = .reject),
     decide (coverage = .blind) && decide (final = .unverified), decide (coverage = .width)])

/-- Grade the plate of track `t` (1 to 4), whose X interval is `track`, over [a, b) with a set (R84, R101). -/
def gradePlate (s : State) (p : ProductSet) (t : Nat) (track : Track) (a b : Pos) : PlateResult :=
  let r : Rectangle := { xLo := track.lo, xHi := track.hi, yStart := a, yEnd := b }
  let members := membersOf s r
  let points := platePoints p r members
  let counts := classCounts members
  let byPoints := pointsGrade p points
  let byCounts := countsGrade p counts
  let absolute := absoluteApplies p members
  let coverage := coverageQuery s t a b
  { track := t, yStart := a, yEnd := b, grade := finalGrade byPoints byCounts absolute coverage,
    causes := gradeCauses byPoints byCounts absolute coverage, points := points, counts := counts,
    members := members.length,
    flaws := (members.take Config.plateListCapacity).map fun e => e.flaw.number,
    listTruncated := decide (Config.plateListCapacity < members.length),
    listingIncomplete := members.any fun e => e.withheld }

/-- The plates of every track of a set over [a, b), in track order (R110). -/
def gradePlates (s : State) (p : ProductSet) (a b : Pos) : List PlateResult :=
  p.tracks.zipIdx.map fun t => gradePlate s p (t.2 + 1) t.1 a b

end Sys2Proof.Machine
end

