-- ==== Sys2Proof/Machine/Planner.lean ====
section
/-! DEFINITION. The Cut Planner (chapter 6) apart from the plan step itself: the order book and its amendments,
eligibility and urgency, the choice of a segment, the Segment Queue and its reports, RUNOUT and the planner's part in
the run state. -/
namespace Sys2Proof.Machine

/-! ## The order book (R102, R103) -/

/-- The lines of the Current set's book, each with its index from 1. -/
def currentBook (s : State) : List (Nat × BookLine) :=
  ((s.sst.current.map HeldSet.book).getD []).zipIdx.map fun x => (x.2 + 1, x.1)

/-- A line is active (R102). -/
def BookLine.active (culletMin : Nat) (b : BookLine) : Bool :=
  decide (culletMin ≤ b.line.length) && decide (b.remaining ≠ some 0)

/-- Change line `n` (from 1) of a book. -/
def changeLine (n : Nat) (f : BookLine → BookLine) (book : List BookLine) : List BookLine :=
  book.zipIdx.map fun x => if x.2 + 1 = n then f x.1 else x.1

/-- Change a line of the Current set's book. -/
def changeCurrentLine (s : State) (n : Nat) (f : BookLine → BookLine) : State :=
  s.setSst { s.sst with current := s.sst.current.map fun h => { h with book := changeLine n f h.book } }

/-! ## Amendments (R128, R129) -/

/-- The last accepted edit number of a section changes. -/
def acceptEdit (s : State) (sec : RequestSection) (edit : BitVec 32) : State :=
  s.setXch { s.xch with edits := s.xch.edits.set sec.index { s.xch.edits[sec.index] with accepted := edit } }

/-- Apply an amendment (R129): both quantities are set anew, and its edit number is the last accepted. -/
def applyAmendment (s : State) (a : Amendment) : State :=
  acceptEdit (changeCurrentLine s a.line fun b => { b with lastSet := a.quantity, remaining := a.quantity }) .amendment a.edit

/-- Apply the pending amendments, kept in increasing line index (R129). -/
def applyPending (s : State) : State :=
  s.cpl.amendments.foldl applyAmendment (s.setCpl { s.cpl with amendments := [] })

/-- An amendment joins the pending ones, in place of one for the same line (R128). -/
def Planner.addAmendment (p : Planner) (a : Amendment) : Planner :=
  { p with amendments := insertBefore (fun x y => decide (x.line < y.line)) a (p.amendments.filter fun x => decide (x.line ≠ a.line)) }

/-- Why an amendment is refused (R128, section 11.2), by the codes of section 11.8. -/
def amendmentRefusal (s : State) (target : BitVec 32) (line : Nat) : Option Nat :=
  match s.sst.current with
  | none => some 1
  | some h => if h.set.number ≠ target then some 1 else if line = 0 ∨ h.book.length < line then some 2 else none

/-- A quantity as the layouts write it (R185). -/
def quantityCode (q : Option Nat) : Nat := q.getD 65535

/-- The amendment section is passed with its edit number (R128). -/
def takeAmendment (s : State) (target : BitVec 32) (a : Amendment) : State :=
  match amendmentRefusal s target a.line with
  | some reason =>
    let number := (s.sst.current.map fun h => h.set.number.toNat).getD 0xFFFFFFFF
    notify s .amendRefused
      [(0x0, le 4 target.toNat), (0x4, le 4 number), (0x8, le 1 reason), (0x9, le 1 a.line),
       (0xA, le 2 (quantityCode a.quantity)), (0xC, leBool s.sst.current.isSome)]
  | none =>
    match s.cpl.state with
    | .idle => applyAmendment s a
    | .draining => applyAmendment s a
    | .planning => s.setCpl (s.cpl.addAmendment a)
    | .runout => s.setCpl (s.cpl.addAmendment a)

/-! ## Eligibility and urgency (R106, R107) -/

/-- P_eff while Next is pending: a Next set exists and its effective position is greater than F (R107). -/
def pendingBoundary (s : State) (frontier : Pos) : Option Pos :=
  match s.sst.next with
  | some n => if frontier < n.effective then some n.effective else none
  | none => none

/-- The view, while line settings, Current and a frontier exist, as they do in RUNNING. -/
def planView (s : State) : Option PlanView :=
  match s.sst.settings, s.sst.current, s.cpl.frontier, commitLimit s with
  | some l, some h, some f, some k =>
    some { settings := l, set := h.set, frontier := f, closed := closedPosition s, limit := k,
           boundary := pendingBoundary s f, book := currentBook s }
  | _, _, _, _ => none

/-- A line is eligible (R107). -/
def PlanView.admits (v : PlanView) (b : BookLine) : Bool :=
  b.active v.settings.culletMin &&
  (match v.boundary with
    | some p => decide (v.frontier + b.line.length ≤ p)
    | none => true)

/-- The eligible lines, in increasing index. -/
def PlanView.eligible (v : PlanView) : List (Nat × BookLine) := v.book.filter fun x => v.admits x.2

/-- The lengths of the eligible lines. -/
def PlanView.lengths (v : PlanView) : List Nat := v.eligible.map fun x => x.2.line.length

/-- L_short (R107). -/
def PlanView.short (v : PlanView) : Nat := (leastNat v.lengths).getD v.settings.culletMin

/-- L_span (R107). -/
def PlanView.span (v : PlanView) : Nat := if v.lengths.isEmpty then v.settings.culletMax else v.lengths.foldl max 0

/-- The step is urgent: commit limit + U ≥ F + L_short (R107). -/
def PlanView.urgent (v : PlanView) : Bool := decide (v.frontier + v.short ≤ v.limit + v.settings.urgencyMargin)

/-- Enough of the ribbon has closed to try every eligible line (R106). -/
def PlanView.spanClosed (v : PlanView) : Bool := decide (v.frontier + v.span ≤ v.closed)

/-- The Cut List is full (R106). -/
def cutListFull (s : State) : Bool := decide (Config.cutListCapacity ≤ s.out.cuts.length)

/-- The Segment Queue is full (R121). -/
def queueFull (s : State) : Bool := decide (Config.segmentQueueCapacity ≤ s.cpl.queue.length)

/-- The planner makes steps in PLANNING and RUNOUT (section 6.2). -/
def PlannerState.plans : PlannerState → Bool
  | .planning => true
  | .runout => true
  | _ => false

/-- The step condition (R106). -/
def stepCondition (s : State) : Bool :=
  s.cpl.state.plans && !cutListFull s &&
  (match planView s with
    | some v => (v.spanClosed || v.urgent) && (!queueFull s || v.urgent)
    | none => false)

/-- PLAN_STEP is due: a step is in progress, or the step condition holds (R106, R109). -/
def planDue (s : State) : Bool := s.cpl.step.isSome || stepCondition s

/-! ## Choosing a line (R110 to R112) -/

/-- A graded candidate (R110, R111). -/
structure Candidate where
  index : Nat
  book : BookLine
  plates : List PlateResult
  credit : Nat
  score : Nat
  deriving DecidableEq, Repr

/-- A plate is good for a line (R111). -/
def OrderLine.accepts (l : OrderLine) (r : PlateResult) : Bool := decide (r.grade.rank ≤ l.grade.rank)

/-- A candidate with its good count, credit and score (R111). -/
def Candidate.of (index : Nat) (b : BookLine) (plates : List PlateResult) : Candidate :=
  let good := plates.countP b.line.accepts
  let credit := match b.remaining with
    | some q => min good q
    | none => good
  { index := index, book := b, plates := plates, credit := credit, score := b.line.value * credit }

/-- An eligible line's segment is closed and can still be cut (R110). -/
def PlanView.reaches (v : PlanView) (b : BookLine) : Bool :=
  decide (v.frontier + b.line.length ≤ v.closed) && decide (v.limit < v.frontier + b.line.length)

/-- The eligible lines whose segment is closed and can still be cut, in increasing index (R110). -/
def PlanView.reachable (v : PlanView) : List (Nat × BookLine) := v.eligible.filter fun x => v.reaches x.2

/-- The grading requests of a step, in the order in which they are taken (R110): for each candidate in increasing line
index one for each track, in increasing track number; candidates of equal length share one set. -/
def PlanView.gradingRequests (v : PlanView) : List GradingRequest :=
  (v.reachable.map fun x => x.2.line.length).eraseDups.flatMap fun length =>
    v.set.tracks.zipIdx.map fun t => { length := length, track := t.2 + 1, interval := t.1 }

/-- The Plate Grader's answer to a request, from the Flaw Map and the Blind Stretch List as they stand (R109). -/
def answerRequest (s : State) (v : PlanView) (r : GradingRequest) : Nat × PlateResult :=
  (r.length, gradePlate s v.set r.track r.interval v.frontier (v.frontier + r.length))

/-- The candidates, in increasing line index, from the results of the grading requests (R110, R111). -/
def candidatesFrom (v : PlanView) (results : List (Nat × PlateResult)) : List Candidate :=
  v.reachable.map fun x =>
    Candidate.of x.1 x.2 ((results.filter fun r => decide (r.1 = x.2.line.length)).map Prod.snd)

/-- The candidates of a step whose requests are all taken in one state. -/
def candidates (s : State) (v : PlanView) : List Candidate :=
  candidatesFrom v (v.gradingRequests.map (answerRequest s v))

/-- The candidate with the greatest score, the lowest index among equals (R111). -/
def bestCandidate : List Candidate → Option Candidate
  | [] => none
  | c :: rest => some (rest.foldl (fun best x => if best.score < x.score then x else best) c)

/-- Give the plates their destinations in track order: the first `credit` good ones are ORDER, further good ones
SURPLUS, the others OFFGRADE (R112). -/
def destinations (l : OrderLine) : Nat → List PlateResult → List Plate
  | _, [] => []
  | credit, r :: rest =>
    if l.accepts r then
      match credit with
      | 0 => { result := r, destination := .surplus } :: destinations l 0 rest
      | n + 1 => { result := r, destination := .order } :: destinations l n rest
    else { result := r, destination := .offgrade } :: destinations l credit rest

/-! ## Cullet (R114 to R118) -/

/-- The cause of a cullet segment, no ORDER segment being made (R114). -/
def culletCause (v : PlanView) (anyCandidate : Bool) : CulletCause :=
  if anyCandidate then .cutout
  else if !v.eligible.isEmpty then .forced
  else if v.boundary.isSome then .boundary
  else .idle

/-- A distance kept within C_min to C_max of the frontier. -/
def PlanView.clampEnd (v : PlanView) (e : Pos) : Pos :=
  max (v.frontier + v.settings.culletMin) (min (v.frontier + v.settings.culletMax) e)

/-- The Y ends of the cut-out flaws that start in the window (R115). -/
def cutoutEnds (s : State) (v : PlanView) (stop : Pos) : List Pos :=
  (s.fas.map.filter fun e =>
    (v.set.row e.flaw.flawClass).cutOut && decide (v.frontier ≤ e.flaw.yStart) && decide (e.flaw.yStart < stop)).map
      fun e => e.flaw.yEnd

/-- The end of a CUTOUT segment before the commit floor (R115). -/
def cutoutEnd (s : State) (v : PlanView) : Pos :=
  let stop := v.frontier + v.settings.culletMax
  let flaws := cutoutEnds s v stop
  let furthest := match windowQuery s v.frontier stop with
    | .open_ => none
    | .until_ y => some (greatestPos (y :: flaws))
    | .none => some (greatestPos flaws)
  match furthest with
  | none => stop
  | some (some m) => v.clampEnd (m + v.settings.clearance)
  | some none => v.frontier + v.settings.culletMin

/-- The end of a BOUNDARY segment before the commit floor (R117). -/
def boundaryEnd (v : PlanView) (p : Pos) : Pos := v.clampEnd p

/-- The end of a cullet segment, with the commit floor (R115 to R118). -/
def culletEnd (s : State) (v : PlanView) (cause : CulletCause) : Pos :=
  let e := match cause with
    | .cutout => cutoutEnd s v
    | .forced => v.frontier + v.settings.culletMin
    | .boundary => boundaryEnd v (v.boundary.getD v.frontier)
    | .idle => v.frontier + v.settings.culletMax
  max e (v.limit + 1)

/-- What a step decides at stage 6. -/
inductive Decision where
  | order (winner : Candidate)
  | cullet (cause : CulletCause)
  deriving DecidableEq, Repr

/-- Stage 6, the candidates being graded (R110 to R114). -/
def decideSegment (v : PlanView) (cs : List Candidate) : Decision :=
  match bestCandidate cs with
  | some c => if 0 < c.score then .order c else .cullet (culletCause v true)
  | none => .cullet (culletCause v false)

/-- The end of the segment decided. -/
def decisionEnd (s : State) (v : PlanView) : Decision → Pos
  | .order c => v.frontier + c.book.line.length
  | .cullet cause => culletEnd s v cause

/-! ## Entering a segment (R112, R113, R122) -/

/-- A segment's kind as it is entered; an ORDER segment keeps the remaining quantity after its credit (R121). -/
def Decision.kind : Decision → SegmentKind
  | .order c => .order c.index (c.book.remaining.map fun q => q - c.credit) (destinations c.book.line c.credit c.plates)
  | .cullet cause => .cullet cause

/-- Raise QUEUE_OCCUPANCY with the number of segments in the queue (R113). -/
def occupancyEvent (s : State) : State := tallyEvent s .queueOccupancy 0 (some s.cpl.queue.length)

/-- The events of a plate of an ORDER segment of line n (R113). -/
def plateEvents (n : Nat) (s : State) (p : Plate) : State :=
  let s1 := tallyEvent s .plateGraded p.result.grade.rank (some p.result.points)
  if p.destination = .order then tallyEvent s1 .plateCredited n none else s1

/-- Credit is taken from the order line and its plates' events are raised (R112, R113). -/
def creditOrder (s : State) (d : Decision) : State :=
  match d with
  | .cullet _ => s
  | .order c =>
    (destinations c.book.line c.credit c.plates).foldl (plateEvents c.index)
      (changeCurrentLine s c.index fun b => { b with remaining := b.remaining.map fun q => q - c.credit })

/-- Stage 7 (R122): the segment joins the queue and its end cut is handed over, the frontier becomes its end, and the
credit and the events follow. -/
def enterSegment (s : State) (v : PlanView) (d : Decision) (stop : Pos) : State :=
  let g : Segment :=
    { number := s.cpl.serial, kind := d.kind, yStart := v.frontier, yEnd := stop, setNumber := v.set.number, late := false,
      lateness := 0, state := .planned }
  let s1 := s.setCpl { s.cpl with queue := s.cpl.queue ++ [g], serial := nextSerial s.cpl.serial, frontier := some stop }
  occupancyEvent (creditOrder (handCut s1 stop (some g.number)) d)

/-! ## RUNOUT (R125, R126) -/

/-- A RUNOUT notice; it is urgent with the action START (section 10.4). -/
def notifyRunout (s : State) (start : Bool) : State :=
  notifyWith s .runout start
    [(0, le 1 (if start then 0 else 1)), (4, le 4 s.cpl.runouts.toNat), (8, lePos s.cpl.frontier)]

/-- RUNOUT begins (R125). -/
def beginRunout (s : State) : State := notifyRunout (s.setCpl { s.cpl with state := .runout, runouts := 0 }) true

/-- RUNOUT ends (R126): the END notice is written and the planner enters the given state. A planner that is not in
RUNOUT has none to end. -/
def endRunout (s : State) (after : PlannerState) : State :=
  let s1 := if s.cpl.state = .runout then notifyRunout s false else s
  s1.setCpl { s1.cpl with state := after }

/-- A runout cut is handed over (R125). -/
def enterRunoutCut (s : State) (position : Pos) : State :=
  let s1 := s.setCpl { s.cpl with frontier := some position, runouts := s.cpl.runouts + 1 }
  occupancyEvent (tallyEvent (handCut s1 position none) .runoutCut 0 none)

/-! ## The Segment Queue's reports (R124, section 11.7) -/

def Destination.code : Destination → Nat
  | .order => 0
  | .surplus => 1
  | .offgrade => 2

/-- The fields that every plate record of a segment carries. -/
def segmentFields (g : Segment) (place total : Nat) (truncated incomplete : Bool) : List (Nat × List Byte) :=
  [(0x00, le 4 g.number.toNat), (0x06, le 1 place), (0x07, le 1 total), (0x08, lePos (some g.yStart)),
   (0x10, lePos (some g.yEnd)), (0x18, le 4 g.setNumber.toNat),
   (0x1D, le 1 (bitsOf [g.late, truncated, incomplete])), (0x20, le 4 g.lateness)]

/-- The plate record of one track of an ORDER segment. -/
def orderRecord (g : Segment) (line : Nat) (remaining : Option Nat) (total : Nat) (p : Plate × Nat) : List Byte :=
  let r := p.1.result
  layout Config.plateRecordSize
    (segmentFields g (p.2 + 1) total r.listTruncated r.listingIncomplete ++
     [(0x04, le 1 0), (0x05, le 1 255), (0x1C, le 1 line), (0x24, le 2 (quantityCode remaining)), (0x26, le 1 r.track),
      (0x27, le 1 r.grade.rank), (0x28, le 1 r.causes.toNat), (0x29, le 1 p.1.destination.code), (0x2A, le 2 r.points),
      (0x2C, le 2 r.members), (0x2E, le 1 r.flaws.length), (0x30, r.counts.flatMap (le 1)),
      (0x40, r.flaws.flatMap fun n => le 4 n.toNat)])

/-- A segment's plate records: one per track of an ORDER segment, one of a CULLET segment (R124). -/
def segmentRecords (g : Segment) : List (List Byte) :=
  match g.kind with
  | .order line remaining plates => plates.zipIdx.map (orderRecord g line remaining plates.length)
  | .cullet cause => [layout Config.plateRecordSize (segmentFields g 1 1 false false ++ [(0x04, le 1 1), (0x05, le 1 cause.code)])]

/-- The oldest segment can be reported: it is CUT and the plate journal has room for all its records (R124). -/
def reportDue (s : State) : Bool :=
  match s.cpl.queue with
  | g :: _ => decide (g.state = .cut) && s.xch.plate.roomFor (segmentRecords g).length
  | [] => false

/-- Report the oldest segment (R124): its records are written together, and it leaves the queue as REPORTED. -/
def reportOldest (s : State) : State :=
  match s.cpl.queue with
  | g :: rest => writeRecords (s.setCpl { s.cpl with queue := rest }) .plate (segmentRecords g)
  | [] => s

/-- Report the oldest segment, then the next, while each can be, at most `n` of them (R124). -/
def reportUpTo : Nat → State → State
  | 0, s => s
  | n + 1, s => if reportDue s then reportUpTo n (reportOldest s) else s

/-- Offer plate journal room to the Segment Queue (R124, R176). -/
def reportSegments (s : State) : State := reportUpTo s.cpl.queue.length s

/-! ## The planner and the run state (R104, R105, R127) -/

/-- Entry to RUNNING (R105): the frontier stands a head margin beyond the commit limit, the planner enters PLANNING and
the head cut is handed over. -/
def startPlanner (s : State) : State :=
  match s.sst.settings, commitLimit s with
  | some l, some k =>
    let f := k + l.headMargin
    handCut (s.setCpl { s.cpl with state := .planning, frontier := some f }) f none
  | _, _ => s

/-- No plan step is in progress. -/
def clearStep (s : State) : State := s.setCpl { s.cpl with step := none }

/-- The change to DRAINING (R104, R127): RUNOUT ends with its notice and the pending amendments are applied. A step that
was in progress has come to its end before (R109). -/
def drainPlanner (s : State) : State := clearStep (applyPending (endRunout s .draining))

/-- Entry to HALTED (R104): the planner is IDLE and its frontier absent. -/
def stopPlanner (s : State) : State := s.setCpl { s.cpl with state := .idle, frontier := none, step := none }

end Sys2Proof.Machine
end

