-- ==== Sys2Proof/Machine/Shift.lean ====
section
/-! DEFINITION. The Tally Unit's section, its shifts and its snapshots (sections 9.2, 9.4.2 and 9.5). -/
namespace Sys2Proof.Machine

/-! ## The shift snapshot (R165 to R167) -/

/-- A counter's part of a snapshot. -/
def Counter.snapshot (c : Counter) : CounterSnapshot := { value := c.value, overflow := c.overflow, kind := c.config.kind }

/-- A counter at the end of a shift (R166): with clear at shift end its value becomes its preload and its flag is
cleared; an EDGE counter keeps its last seen levels. -/
def Counter.endShift (c : Counter) : Counter :=
  if c.config.clearAtShiftEnd then { c with value := c.config.preload, overflow := false } else c

/-- The snapshot of this moment (R166). -/
def snapshotNow (s : State) : Snapshot :=
  { ended := s.tly.shiftTaken, begun := s.tly.requestedShift, startPosition := s.tly.shiftStart,
    startTime := s.tly.shiftStartTime, endPosition := s.rtk.gantry, endTime := s.timeBase,
    counters := mapVec Counter.snapshot s.tly.counters }

/-- The SHIFT_REPORT notice's record (section 11.8). -/
def shiftReport (s : State) (p : Snapshot) : List Byte :=
  noticeRecord s .shiftReport false
    [(0x00, le 4 p.ended.toNat), (0x04, le 4 p.begun.toNat), (0x08, le 8 p.startPosition.toNat),
     (0x10, le 8 p.startTime.toNat), (0x18, le 8 p.endPosition.toNat), (0x20, le 8 p.endTime.toNat),
     (0x28, le 2 (bitsOf ((vecList p.counters).map CounterSnapshot.overflow))),
     (0x30, (vecList p.counters).flatMap fun c => le 1 c.kind.code),
     (0x40, (vecList p.counters).flatMap fun c => le 8 c.value.toNat)]

/-- A pending snapshot can be written: the notice journal has room (R167). -/
def snapshotDue (s : State) : Bool := s.tly.snapshot.isSome && s.xch.notice.roomFor 1

/-- The pending snapshot is written as a SHIFT_REPORT and SNAPSHOT is raised (R167). -/
def putSnapshot (s : State) : State :=
  match s.tly.snapshot with
  | some p =>
    raiseCause (writeRecords (s.setTly { s.tly with snapshot := none }) .notice [shiftReport s p]) .snapshot
  | none => s

/-- A shift is due: the requested number differs from the number taken and no snapshot is pending (R165). -/
def shiftDue (s : State) : Bool :=
  decide (s.tly.requestedShift ≠ s.tly.shiftTaken) && s.tly.snapshot.isNone

/-- Take a shift (R166): its snapshot becomes the pending snapshot, ready to be offered. -/
def takeShift (s : State) : State :=
  s.setTly
    { s.tly with
      counters := mapVec Counter.endShift s.tly.counters
      shiftTaken := s.tly.requestedShift
      shiftStart := s.rtk.gantry
      shiftStartTime := s.timeBase
      snapshot := some (snapshotNow s) }

/-- Write the pending snapshot if the journal has room (R167). -/
def offerSnapshot (s : State) : State := if snapshotDue s then putSnapshot s else s

/-- The test of R165, and the offer of the snapshot it takes. When that one is written the requested number has been
taken, so no further shift is due. -/
def testShift (s : State) : State := if shiftDue s then offerSnapshot (takeShift s) else s

/-- A pending snapshot is offered again; once it is written, a requested shift that waited is taken (R167). -/
def offerPending (s : State) : State := if snapshotDue s then testShift (putSnapshot s) else s

/-! ## The tally section (R158, R159, R165) -/

/-- A counter takes its corrected configuration (R158): one that differs in no field changes nothing. -/
def Counter.configure (c : Counter) (config : TallyConfig) (now : BitVec 16) : Counter :=
  if c.config = config then c
  else { value := config.preload, overflow := false, config := config, seen := if config.mode = .edge then some now else none }

/-- The clear-overflow mask acts on a counter (R159). -/
def Counter.clearOverflow (c : Counter) (clear : Bool) : Counter := if clear then { c with overflow := false } else c

/-- What the tally section holds (section 11.2), its configurations already corrected. -/
structure TallySection where
  clear : BitVec 16
  freeze : Bool
  shift : BitVec 32
  configs : Vector TallyConfig 16

/-- Take the configurations, the clear-overflow mask and the freeze (R158, R159). -/
def configureTallies (s : State) (t : TallySection) : State :=
  s.setTly
    { s.tly with
      counters := Vector.ofFn fun n =>
        (s.tly.counters[n].configure t.configs[n] (levels s t.configs[n].kind)).clearOverflow (t.clear.getLsbD n.val)
      freeze := t.freeze }

/-- The tally section is passed: the shift number and its test first, then the rest (R165, R158, R159). -/
def takeTallySection (s : State) (t : TallySection) : State :=
  configureTallies (testShift (s.setTly { s.tly with requestedShift := t.shift })) t

end Sys2Proof.Machine
end

