-- ==== Sys2Proof/Machine/SetStore.lean ====
section
/-! DEFINITION. The Set Store (chapter 8): the taking of line settings, the acceptance and taking of product sets, and
the run state. -/
namespace Sys2Proof.Machine

/-! ## The run state (R152 to R155) -/

/-- A change of the run state: the RUN_STATE notice is written and RUN_CHANGE raised. -/
def changeRun (s : State) (run : RunState) : State :=
  let old := s.sst.run
  let s1 := s.setSst { s.sst with run := run }
  raiseCause (notify s1 .runState
    [(0, le 1 old.code), (1, le 1 run.code), (0x8, lePos (some (gantryPos s))), (0x10, lePos (some (closedPosition s1)))])
    .runChange

/-- Entry to RUNNING (R153): the notice, the Coverage Unit's initial stretches (R80), and the planner's start (R105). -/
def enterRunning (s : State) : State := startPlanner (startCoverage (changeRun s .running))

/-- The run may start (R153). -/
def runReady (s : State) : Bool :=
  decide (s.sst.run = .halted) && s.sst.requested && s.sst.settings.isSome && s.sst.current.isSome

/-- The test of R153. -/
def testRun (s : State) : State := if runReady s then enterRunning s else s

/-! ## Product sets (R147 to R149, R151) -/

/-- What a set section is acted on for, or why it waits (R147). -/
def setHold (s : State) : Option SetHold :=
  if s.sst.settings.isNone then some .noSettings else if s.sst.next.isSome then some .nextFull else none

/-- A set as it is held from its acceptance: each limited line's quantities become its quantity (R103, R149). -/
def holdSet (p : ProductSet) (serial : BitVec 32) : HeldSet :=
  { set := p, serial := serial,
    book := p.orders.map fun o => { line := o, lastSet := o.quantity, remaining := o.quantity } }

/-- The SET_ACCEPTED notice; the effective positions are absent for a set accepted as Current. -/
def notifyAccepted (s : State) (edit : BitVec 32) (h : HeldSet) (place : Option (Pos × Pos)) (clamped : List Nat) : State :=
  notify s .setAccepted
    [(0x0, le 4 edit.toNat), (0x4, le 4 h.set.number.toNat), (0x8, le 4 h.serial.toNat), (0xC, leBool place.isSome),
     (0xE, le 2 clamped.length), (0x10, lePos (place.map Prod.fst)), (0x18, lePos (place.map Prod.snd)),
     (0x20, le 2 (clamped.head?.getD 65535))]

/-- A set is accepted (R149): as Current when there is none, else as Next, whose boundary the Coverage Unit is given. -/
def acceptSet (s : State) (edit : BitVec 32) (r : RawSet) : State :=
  let h := holdSet r.set s.sst.serial
  match s.sst.current with
  | none =>
    let s1 := s.setSst { s.sst with current := some h, serial := nextSerial s.sst.serial }
    testRun (acceptEdit (notifyAccepted s1 edit h none r.clamped) .productSet edit)
  | some _ =>
    let given : Pos := r.set.given
    let effective := max given (closedPosition s)
    let s1 := s.setSst { s.sst with next := some { held := h, effective := effective }, serial := nextSerial s.sst.serial }
    followClosed (acceptEdit (notifyAccepted s1 edit h (some (given, effective)) r.clamped) .productSet edit)

/-- A set is refused (R148). -/
def refuseSet (s : State) (edit : BitVec 32) (number : Nat) (f : ImageRefusal) : State :=
  notify s .setRefused [(0, le 4 edit.toNat), (4, le 4 number), (8, le 1 f.reason), (9, le 1 (f.item.getD 255))]

/-- Act on a product set section (R147): its image is read as it stands, checked, and accepted or refused. -/
def actOnSet (s : State) (w : WaitingSection) : State :=
  match s.sst.settings with
  | none => s
  | some l =>
    if setPlaced s.mem w.offset then
      let r := readSet s.mem w.offset
      match checkSet l r with
      | none => acceptSet s w.edit r
      | some f => refuseSet s w.edit r.set.number.toNat f
    else refuseSet s w.edit (refusedSetNumber s.mem w.offset) { reason := 1, item := none }

/-- The product set section is passed (R147): acted on, or made the waiting section in place of any other. -/
def passSet (s : State) (w : WaitingSection) : State :=
  match setHold s with
  | some hold => s.setSst { s.sst with waitingSet := some (w, hold) }
  | none => actOnSet (s.setSst { s.sst with waitingSet := none }) w

/-- A waiting set section is acted on when its hold has cleared (R147). -/
def actOnWaitingSet (s : State) (hold : SetHold) : State :=
  match s.sst.waitingSet with
  | some (w, held) => if held = hold ∧ setHold s ≠ some hold then passSet s w else s
  | none => s

/-- Next is taken into Current (R151, R120): the Coverage Unit forgets the boundary, the notice and the tally event
follow, and a section waiting with NEXT_FULL is acted on. -/
def takeNext (s : State) : State :=
  match s.sst.current, s.sst.next with
  | some old, some n =>
    let s1 := (s.setSst { s.sst with current := some n.held, next := none }).setCov { s.cov with boundary := none }
    let s2 := notify s1 .setTaken
      [(0x0, le 4 n.held.set.number.toNat), (0x4, le 4 n.held.serial.toNat), (0x8, le 4 old.set.number.toNat),
       (0xC, le 4 old.serial.toNat), (0x10, lePos s.cpl.frontier)]
    actOnWaitingSet (tallyEvent s2 .setTaken 0 none) .nextFull
  | _, _ => s

/-! ## Line settings (R144 to R146, R171) -/

/-- The poll interval in force (R169): the Request Block's field from 1 to 100 ms, else the line settings', else 5 ms. -/
def pollIntervalNow (s : State) : Nat :=
  let field := s.mem.readLe Config.requestBlock 2
  if 1 ≤ field ∧ field ≤ 100 then field else (s.sst.settings.map LineSettings.pollInterval).getD Config.defaultPollMs

/-- A journal placed anew holds no unread record (R171). -/
def Journal.placed (j : Journal) (p : JournalPlace) : Journal :=
  { j with place := some p, readCopy := j.writeCount, badRead := false }

/-- The copy becomes the line settings in force and the journals are placed (R146, R171). -/
def placeSettings (s : State) (l : LineSettings) : State :=
  let s1 := (s.setSst { s.sst with settings := some l, waitingSettings := none }).setXch
    { s.xch with flaw := s.xch.flaw.placed l.flawPlace, plate := s.xch.plate.placed l.platePlace,
                 notice := s.xch.notice.placed l.noticePlace }
  s1.setXch { s1.xch with pollInterval := pollIntervalNow s1 }

/-- The taking of line settings (R146): every block acts on it, its notices in the order R146 gives. The cutter position
changes with the settings, so the Flaw Map's release test is made again (R62). -/
def takeSettings (s : State) (edit : BitVec 32) (c : Clamped LineSettings) : State :=
  let s1 := releaseFlaws (placeSettings s c.value)
  let s2 := acceptEdit (notify s1 .settingsAccepted
    [(0, le 4 edit.toNat), (4, le 2 c.clamped.length), (6, le 2 (c.clamped.head?.getD 65535))]) .settings edit
  let s3 := allLanes.foldl settingsLane (settingsTracker s2)
  offerPending (reportSegments (settingsMarks s3))

/-- Line settings are refused (R145). -/
def refuseSettings (s : State) (edit : BitVec 32) (f : ImageRefusal) : State :=
  notify s .settingsRefused [(0, le 4 edit.toNat), (4, le 1 f.reason), (5, le 1 (f.item.getD 255))]

/-- Act on a line settings section (R144): its image is read as it stands, checked, and taken or refused. After a
taking a set section waiting with NO_SETTINGS is acted on (R147) and the run is tested (R153). -/
def actOnSettings (s : State) (w : WaitingSection) : State :=
  let s0 := s.setSst { s.sst with waitingSettings := none }
  if imagePlaced w.offset Config.settingsImageSize then
    let c := readSettings s0.mem w.offset
    match checkSettings c.value with
    | none => testRun (actOnWaitingSet (takeSettings s0 w.edit c) .noSettings)
    | some f => refuseSettings s0 w.edit f
  else refuseSettings s0 w.edit { reason := 1, item := none }

/-- The line settings section is passed (R144). -/
def passSettings (s : State) (w : WaitingSection) : State :=
  match s.sst.run with
  | .halted => actOnSettings s w
  | .running => s.setSst { s.sst with waitingSettings := some w }
  | .draining => s.setSst { s.sst with waitingSettings := some w }

/-! ## Halting (R154, R155) -/

/-- The blocks act on the halt (R155, R104, R63, R80), and the notice follows. -/
def stopBlocks (s : State) : State :=
  let s1 := stopCoverage (stopPlanner s)
  noteLevels (changeRun (s1.setFas { s1.fas with map := [] }) .halted)

/-- A waiting settings section is acted on (R146). -/
def actOnWaitingSettings (s : State) : State :=
  match s.sst.waitingSettings with
  | some w => actOnSettings s w
  | none => s

/-- The run enters HALTED (R155): the blocks, then a waiting settings section, then a waiting set section, then the
requested run. -/
def haltRun (s : State) : State :=
  testRun (actOnWaitingSet (actOnWaitingSettings (stopBlocks s)) .noSettings)

/-- The entry to HALTED is due: the Cut List is empty in DRAINING (R133, R155). -/
def haltDue (s : State) : Bool := decide (s.sst.run = .draining) && s.out.cuts.isEmpty

/-- RUNNING goes to DRAINING (R154): every open blob closes TRUNCATED, the planner drains, the notice follows; with the
Cut List already empty the run goes on to HALTED. -/
def drainRun (s : State) : State :=
  let s1 := followClosed (changeRun (drainPlanner (allLanes.foldl truncateLane s)) .draining)
  if haltDue s1 then haltRun s1 else s1

/-- The run section is passed (R152). -/
def passRun (s : State) (edit : BitVec 32) (run : Bool) : State :=
  let s1 := acceptEdit (s.setSst { s.sst with requested := run }) .run edit
  if s1.sst.run = .running ∧ run = false then drainRun s1 else testRun s1

end Sys2Proof.Machine
end

