-- ==== Sys2Proof/Machine/PlanStep.lean ====
section
/-! DEFINITION. The plan step (R108), which events at other blocks may come into the course of (R109). -/
namespace Sys2Proof.Machine

/-- Stage 2 (R108, R120): when a Next set exists and the frontier has reached its effective position, Next is taken. -/
def takeNextAt (s : State) : State :=
  match s.sst.next, s.cpl.frontier with
  | some n, some f => if n.effective ≤ f then takeNext s else s
  | _, _ => s

/-- A position above the commit limit as it is read again at stage 7 (R109). -/
def aboveLimit (s : State) (position : Pos) : Bool :=
  match commitLimit s with
  | some k => decide (k < position)
  | none => false

/-- The position of a runout cut: the greater of F + C_max and k + 1 (R125). -/
def runoutPosition (v : PlanView) : Pos := max (v.frontier + v.settings.culletMax) (v.limit + 1)

/-- Replace the step in progress. -/
def setStep (s : State) (p : PlanProgress) : State := s.setCpl { s.cpl with step := some p }

/-- Stage 4 with a full Segment Queue and an urgent step (R125): RUNOUT begins unless it already has. -/
def openRunout (s : State) (v : PlanView) : State :=
  setStep (if s.cpl.state = .planning then beginRunout s else s)
    { view := v, runout := true, requests := [], results := [] }

/-- Stage 5 (R126): RUNOUT ends, and the grading requests are found (R110). -/
def openGrading (s : State) (v : PlanView) : State :=
  setStep (if s.cpl.state = .runout then endRunout s .planning else s)
    { view := v, runout := false, requests := v.gradingRequests, results := [] }

/-- Stages 3 to 5 (R108): what the step goes on to do from the view it reads. -/
def workStep (s : State) (v : PlanView) : State :=
  if !(v.spanClosed || v.urgent) || cutListFull s then s
  else if queueFull s then (if v.urgent then openRunout s v else s)
  else openGrading s v

/-- Stages 1 to 5 of a step: pending amendments are applied, Next may be taken, and a step that goes on is in progress. -/
def openStep (s : State) : State :=
  let s1 := takeNextAt (applyPending s)
  match planView s1 with
  | some v => workStep s1 v
  | none => s1

/-- The first n of a step's grading requests are taken, in their order (R109, R110). -/
def PlanProgress.take (p : PlanProgress) (s : State) (n : Nat) : PlanProgress :=
  { p with requests := p.requests.drop n, results := p.results ++ (p.requests.take n).map (answerRequest s p.view) }

/-- Stages 6 and 7 (R108), with the recheck of R109: what is decided is entered when it still lies above the commit
limit, and otherwise the step is abandoned and enters nothing. -/
def closeStep (s : State) (p : PlanProgress) : State :=
  if p.runout then
    if aboveLimit s (runoutPosition p.view) then enterRunoutCut s (runoutPosition p.view) else s
  else
    let d := decideSegment p.view (candidatesFrom p.view p.results)
    let stop := decisionEnd s p.view d
    if aboveLimit s stop then enterSegment s p.view d stop else s

/-- The step in progress, if there is one, takes the rest of its requests and comes to its end. -/
def finishStep (s : State) : State :=
  match s.cpl.step with
  | some p => closeStep (clearStep s) (p.take s p.requests.length)
  | none => s

/-- The step in progress, if there is one, takes n more of its requests. -/
def advanceStep (n : Nat) (s : State) : State :=
  match s.cpl.step with
  | some p => setStep s (p.take s n)
  | none => s

/-- The planner's turn is counted. -/
def countTurn (s : State) : State := s.setCpl { s.cpl with turns := s.cpl.turns + 1 }

/-- A plan step begins (R108). It goes on to its end, or through n of its grading requests where other events come
between (R109). -/
def beginStep (pause : Option Nat) (s : State) : State :=
  match pause with
  | none => finishStep (openStep s)
  | some n => advanceStep n (openStep s)

/-- A step in progress goes on: to its end, or, while requests are left, through n + 1 more of them (R109). -/
def resumeStep (pause : Option Nat) (s : State) (p : PlanProgress) : State :=
  match pause with
  | none => finishStep s
  | some n => if p.requests.isEmpty then finishStep s else advanceStep (n + 1) s

/-- The planner's turn at a plan step (R108, R109). Where other events come into the step is the free value
Config.planPause of the turn (log entry 23). -/
def makePlanStep (s : State) : State :=
  let pause := Config.planPause s.cpl.turns
  match s.cpl.step with
  | none => beginStep pause (countTurn s)
  | some p => resumeStep pause (countTurn s) p

end Sys2Proof.Machine
end

