-- ==== Sys2Proof/Machine/Exchange.lean ====
section
/-! DEFINITION. The Exchange Controller (chapter 10): the poll, the Mark Block, and the two resets. -/
namespace Sys2Proof.Machine

/-! ## Read counts (R172, R176) -/

/-- The room a valid read count frees is offered (R176). -/
def offerRoom (s : State) : JournalId → State
  | .flaw => s
  | .plate => reportSegments s
  | .notice => offerPending s

/-- A read count is valid: it leaves no more than the capacity unread (R172). -/
def Journal.validRead (j : Journal) (p : JournalPlace) (value : BitVec 32) : Bool :=
  decide ((j.writeCount - value).toNat ≤ p.capacity)

/-- A bad read count (R172): the flag is set, FAULT raised and the notice written. -/
def badReadCount (s : State) (id : JournalId) (j : Journal) (value : BitVec 32) : State :=
  let s1 := s.setXch (s.xch.setJournal id { j with badRead := true })
  notify (setLastFault (raiseCause s1 .fault) .readCountBad) .readCountBad
    [(0, le 1 id.code), (4, le 4 value.toNat), (8, le 4 j.writeCount.toNat), (0xC, le 4 j.readCopy.toNat)]

/-- Take a journal's read count as the Request Block holds it (R172). -/
def takeReadCount (s : State) (id : JournalId) : State :=
  let value := requestReadCount s.mem id
  let j := s.xch.journal id
  if value = j.lastRead then s
  else
    let j1 := { j with lastRead := value }
    match j.place with
    | none => s.setXch (s.xch.setJournal id j1)
    | some p =>
      if j.validRead p value then
        offerRoom (s.setXch (s.xch.setJournal id { j1 with readCopy := value, badRead := false })) id
      else badReadCount s id j1 value

/-- The three journals, in the order in which a poll takes their read counts, which R170 leaves open (log entry 42). -/
def allJournals : List JournalId := [.flaw, .plate, .notice]

/-! ## Sections (R170) -/

/-- The seven sections, in the order in which a poll passes them on (section 10.2). -/
def allSections : List RequestSection := [.settings, .productSet, .lane, .marker, .tally, .amendment, .run]

/-- A field of a section, by its offset from the section's edit number. -/
def sectionField (s : State) (sec : RequestSection) (offset bytes : Nat) : Nat := s.mem.readLe (sec.address + offset) bytes

/-- The tally section's contents (section 11.2). -/
def tallySection (s : State) : TallySection :=
  { clear := BitVec.ofNat 16 (sectionField s .tally 4 2), freeze := yesNo (sectionField s .tally 6 1),
    shift := BitVec.ofNat 32 (sectionField s .tally 8 4), configs := Vector.ofFn fun n => requestConfig s.mem n.val }

/-- The amendment of the amendment section. -/
def sectionAmendment (s : State) (edit : BitVec 32) : Amendment :=
  { edit := edit, line := sectionField s .amendment 8 1, quantity := quantityOf (sectionField s .amendment 10 2) }

/-- Pass a section's contents to its owner, which acts on them (R170). -/
def actOnSection (s : State) (sec : RequestSection) (edit : BitVec 32) : State :=
  match sec with
  | .settings => passSettings s { edit := edit, offset := sectionField s sec 4 4 }
  | .productSet => passSet s { edit := edit, offset := sectionField s sec 4 4 }
  | .lane =>
    takeLaneSection (acceptEdit s sec edit) (BitVec.ofNat 12 (sectionField s sec 4 2)) (BitVec.ofNat 12 (sectionField s sec 6 2))
  | .marker => takeHold (acceptEdit s sec edit) (yesNo (sectionField s sec 4 1))
  | .tally => takeTallySection (acceptEdit s sec edit) (tallySection s)
  | .amendment => takeAmendment s (BitVec.ofNat 32 (sectionField s sec 4 4)) (sectionAmendment s edit)
  | .run => passRun s edit (decide (sectionField s sec 4 4 = 1))

/-- The last seen edit number of a section changes. -/
def seeEdit (s : State) (sec : RequestSection) (edit : BitVec 32) : State :=
  s.setXch { s.xch with edits := s.xch.edits.set sec.index { s.xch.edits[sec.index] with seen := edit } }

/-- A section whose edit number differs from the last seen is passed (R170). -/
def passSection (s : State) (sec : RequestSection) : State :=
  let edit := requestEdit s.mem sec
  if edit = s.xch.edits[sec.index].seen then s else actOnSection (seeEdit s sec edit) sec edit

/-! ## The first poll (R170, R185) -/

/-- Record a section's edit number as last seen and last accepted. -/
def baselineEdit (s : State) (sec : RequestSection) : State :=
  let edit := requestEdit s.mem sec
  acceptEdit (seeEdit s sec edit) sec edit

/-- Record a journal's read count without judging it. -/
def baselineRead (s : State) (id : JournalId) : State :=
  s.setXch (s.xch.setJournal id { s.xch.journal id with lastRead := requestReadCount s.mem id })

/-- The baselines of the first poll. -/
def takeBaselines (s : State) : State :=
  let s1 := allSections.foldl baselineEdit (allJournals.foldl baselineRead s)
  s1.setXch { s1.xch with firstPoll := false }

/-! ## The Mark Block (R178, section 11.3) -/

/-- A held set's number, absent when there is none (R185). -/
def setNumberOf (h : Option HeldSet) : Nat := (h.map fun h => h.set.number.toNat).getD 0xFFFFFFFF

/-- A held set's acceptance serial, 0 when there is none (R185). -/
def setSerialOf (h : Option HeldSet) : Nat := (h.map fun h => h.serial.toNat).getD 0

def PlannerState.code : PlannerState → Nat
  | .idle => 0
  | .planning => 1
  | .runout => 2
  | .draining => 3

def SetHold.code : SetHold → Nat
  | .noSettings => 1
  | .nextFull => 2

/-- The hold reasons, as their mask (R153, R154, R144). -/
def holdReasons (s : State) : Nat :=
  bitsOf [s.sst.requested && decide (s.sst.run = .halted) && s.sst.settings.isNone,
          s.sst.requested && decide (s.sst.run = .halted) && s.sst.current.isNone,
          s.sst.requested && decide (s.sst.run = .draining),
          s.sst.waitingSettings.isSome]

/-- The run, position, speed and set fields. -/
def markRunFields (s : State) : List (Nat × List Byte) :=
  [(0x000, le 8 s.timeBase.toNat), (0x008, le 1 s.sst.run.code), (0x009, leBool s.sst.requested),
   (0x00A, le 1 (holdReasons s)), (0x00B, le 1 s.cpl.state.code),
   (0x00C, le 1 ((s.sst.waitingSet.map fun w => w.2.code).getD 0)), (0x010, le 4 s.cpl.runouts.toNat),
   (0x018, lePos (some (gantryPos s))), (0x020, lePos (markerPosition s)), (0x028, lePos (cutterPosition s)),
   (0x030, lePos (commitLimit s)), (0x038, lePos (some (closedPosition s))), (0x040, lePos s.cpl.frontier),
   (0x048, lePos (s.sst.next.map NextSet.effective)), (0x050, le 4 s.rtk.gate.speed.toNat),
   (0x054, le 4 s.rtk.gate.heldSpeed.toNat), (0x058, leBool s.rtk.gate.stalled), (0x059, leBool s.rtk.gate.slipAlarm),
   (0x05A, leSlip s.rtk.gate.slip), (0x060, le 4 (setNumberOf s.sst.current)), (0x064, le 4 (setSerialOf s.sst.current)),
   (0x068, le 4 (setNumberOf (s.sst.next.map NextSet.held))), (0x06C, le 4 (setSerialOf (s.sst.next.map NextSet.held)))]

/-- The request, journal and occupancy fields. -/
def markRequestFields (s : State) : List (Nat × List Byte) :=
  [(0x070, (vecList s.xch.edits).flatMap fun e => le 4 e.seen.toNat ++ le 4 e.accepted.toNat),
   (0x0A8, allJournals.flatMap fun id =>
      let j := s.xch.journal id
      le 4 j.writeCount.toNat ++ le 4 j.withheld.toNat ++ leBool j.badRead ++ le 3 0),
   (0x0CC, le 1 s.cpl.queue.length), (0x0CD, le 1 s.out.cuts.length), (0x0CE, le 1 s.out.marks.length),
   (0x0D0, le 2 s.fas.map.length), (0x0D2, le 1 s.cov.list.length)]

/-- A lane's 16 bytes. -/
def markLane (l : Lane) : List Byte :=
  le 1 l.state.code ++ le 1 l.gain ++ le 2 0 ++ le 4 l.headerErrors.toNat ++ le 4 l.payloadErrors.toNat ++
    le 4 l.stalePackets.toNat

/-- The tally and lane fields. -/
def markTallyFields (s : State) : List (Nat × List Byte) :=
  [(0x0E0, le 4 s.tly.shiftTaken.toNat), (0x0E4, leBool s.tly.snapshot.isSome),
   (0x0E8, le 2 (bitsOf ((vecList s.tly.counters).map Counter.overflow))),
   (0x0F0, (vecList s.tly.counters).flatMap fun c => le 8 c.value.toNat), (0x170, (vecList s.lanes).flatMap markLane)]

/-- The Mark Block as it stands, reserved bytes 0 (R184). -/
def markBytes (s : State) : List Byte :=
  layout Config.blockSize (markRunFields s ++ markRequestFields s ++ markTallyFields s)

/-- Rewrite the Mark Block (R178). -/
def rewriteMarks (s : State) : State := s.setMem (s.mem.writeBytes Config.markBlock (markBytes s))

/-! ## The poll (R169, R170) -/

/-- The poll's work on the Request Block: the baselines of a first poll, else the read counts and the sections. -/
def workRequests (s : State) : State :=
  if s.xch.firstPoll then takeBaselines s else allSections.foldl passSection (allJournals.foldl takeReadCount s)

/-- The poll timer restarts with the poll interval in force (R169). -/
def restartTimer (s : State) : State :=
  let ms := pollIntervalNow s
  s.setXch { s.xch with pollInterval := ms, pollTimer := ms * 1000 }

/-- A poll (R170). -/
def poll (s : State) : State := rewriteMarks (restartTimer (workRequests s))

/-- The poll timer has expired and the poll of that expiry has yet to be made (R169). -/
def expired (s : State) : Bool := s.xch.expiryDue || decide (s.xch.pollTimer = 0)

/-- Say whether an expiry's own poll has yet to be made. -/
def setExpiry (s : State) (due : Bool) : State := s.setXch { s.xch with expiryDue := due }

/-- The poll of a PROMPT (R169): one that comes together with a timer expiry leaves the expiry its own poll. -/
def promptPoll (s : State) : State := poll (setExpiry s (expired s))

/-- The poll of a timer expiry (R169). -/
def timerPoll (s : State) : State := poll (setExpiry s false)

/-- The bytes the computer has stored are in place (R168; log entry 2). -/
def receiveWrites (s : State) (written : List Host.Cell) : State := s.setMem (s.mem.storeCells written)

/-! ## Resets (R156, R182, R183) -/

/-- A control reset of the whole part (R182): every block returns to its reset state, the gantry position and the time
base go on, and the exchange memory stays. A poll of a timer expiry that comes together with the reset is still made
and is the first poll after it. -/
def controlReset (s : State) : State :=
  { pending := s.pending, timeBase := s.timeBase, rtk := Tracker.reset s.rtk.gantry, laneMask := 0,
    lanes := Vector.replicate 12 Lane.reset, fas := Assembler.reset, cov := Coverage.reset, cpl := Planner.reset,
    out := Outputs.reset, tly := Tallies.reset s.rtk.gantry s.timeBase, sst := Store.reset,
    xch := { Exchange.reset with expiryDue := expired s }, mem := s.mem }

/-- Power-on (R183): the gantry position and the time base start from 0 and the memory's contents are undefined, those
of a new generation (log entry 1). -/
def powerUp (s : State) : State :=
  { State.reset with pending := s.pending, mem := { generation := s.mem.generation + 1, cells := [] } }

/-- A write of a value to CTRL: RESET first, then PROMPT (R182). -/
def writeCtrl (s : State) (value : BitVec 32) : State :=
  let s1 := if value.getLsbD 0 then controlReset s else s
  if value.getLsbD 1 then promptPoll s1 else s1

end Sys2Proof.Machine
end

