-- ==== Sys2Proof/Machine/Events.lean ====
section
/-! DEFINITION. Time: what falls due of itself and when, and the passing of time (log entries 5 and 6). -/
namespace Sys2Proof.Machine

/-! ## Waits -/

/-- How many microseconds there are until an end time, 0 when it has been reached. -/
def waitFor (now ends : Micros) : Nat := if reached now ends then 0 else (ends - now).toNat

/-- The wait for the phase end or the STALL of the speed gate, while a phase runs. -/
def gateWait (s : State) : Option Nat :=
  match s.rtk.gate.phase with
  | .stopped => none
  | .gate => if gateEndDue s then some 0 else some (stallWait s.rtk.gate)
  | .slip => some (slipWait s.rtk.gate)

/-- The wait for the strobe's pulse end or gap end. -/
def strobeWait (s : State) : Option Nat :=
  match s.out.strobe.phase with
  | .ready => none
  | .pulse => some (waitFor s.timeBase s.out.strobe.ends)
  | .gap => some (waitFor s.timeBase s.out.strobe.ends)

/-- The wait for a nozzle's pulse end. -/
def nozzleWait (s : State) (n : Fin 4) : Option Nat :=
  if s.out.nozzles[n].busy then some (waitFor s.timeBase s.out.nozzles[n].ends) else none

/-- The wait for the poll timer's expiry, which has come where its poll has yet to be made (R169). -/
def pollWait (s : State) : Nat := if s.xch.expiryDue then 0 else s.xch.pollTimer

/-- The wait for the next moment at which something falls due by time: the poll timer always runs (R169). -/
def nextWait (s : State) : Nat :=
  ((gateWait s).toList ++ (strobeWait s).toList ++ allNozzles.filterMap (nozzleWait s)).foldl min (pollWait s)

/-! ## The passing of time -/

/-- `n` microseconds pass: the time base, the gate's time counter and the poll timer move (5.2, R5, R7, R169). -/
def elapse (s : State) (n : Nat) : State :=
  (setGate (s.setXch { s.xch with pollTimer := s.xch.pollTimer - n }) (s.rtk.gate.elapse n)).setTime
    (s.timeBase + BitVec.ofNat 48 n)

/-- An event that time brings in `n` microseconds: they pass, and it takes place. An event before which another falls
due cannot be the next one, and nothing happens (log entry 5). -/
def afterWait (s : State) (n : Nat) (event : State → State) : State :=
  if n ≤ nextWait s then event (elapse s n) else s

/-- An event that a condition brings takes place while the condition holds (log entry 5). -/
def whenDue (s : State) (due : Bool) (event : State → State) : State := if due then event s else s

/-! ## What the part does of itself (log entry 6) -/

/-- The nozzle, if any, whose pulse end has been reached. -/
def endedNozzle (s : State) : Option (Fin 4) := allNozzles.find? fun n => nozzleEndDue s n

/-- What has fallen due and comes first; with nothing due, time passes to the next moment at which something will be. -/
def internalStep (s : State) : State :=
  if gateEndDue s then endGate s
  else if stallDue s then doStall s
  else if slipEndDue s then endSlip s
  else if pulseEndDue s then endPulse s
  else if gapEndDue s then endGap s
  else
    match endedNozzle s with
    | some n => endNozzle s n
    | none =>
      if haltDue s then haltRun s
      else if s.cpl.step.isSome then makePlanStep s
      else if reportDue s then reportOldest s
      else if snapshotDue s then offerPending s
      else if stepCondition s then makePlanStep s
      else if expired s then timerPoll s
      else elapse s (nextWait s)

end Sys2Proof.Machine
end

