-- ==== Sys2Proof/Machine/Control.lean ====
section
/-! DEFINITION. The events of the Exchange Controller, the Set Store, the planner and the Tally Unit:
POLL_TIMER_EXPIRY, ENTER_HALTED, PLAN_STEP, SEGMENT_REPORT and SNAPSHOT_WRITE. -/
namespace Sys2Proof.Machine

/-- POLL_TIMER_EXPIRY (R169): the poll timer runs out and a poll is made. A plan step in progress comes to its end first
(R109). -/
def execPollTimerExpiry (written : List Host.Cell) (s : State) : Host.Outcome State Fault Refusal :=
  .next (afterWait (receiveWrites s written) (pollWait s) fun t => timerPoll (finishStep t))

/-- ENTER_HALTED (R155): the Cut List is empty in DRAINING. -/
def execEnterHalted (written : List Host.Cell) (s : State) : Host.Outcome State Fault Refusal :=
  .next (whenDue (receiveWrites s written) (haltDue s) haltRun)

/-- PLAN_STEP (R106, R108, R109): the step condition holds, or a step is in progress and goes on. -/
def execPlanStep (written : List Host.Cell) (s : State) : Host.Outcome State Fault Refusal :=
  .next (whenDue (receiveWrites s written) (planDue s) makePlanStep)

/-- SEGMENT_REPORT (R124): the oldest segment is CUT and the plate journal has room for its records. A plan step in
progress comes to its end first (R109). -/
def execSegmentReport (s : State) : Host.Outcome State Fault Refusal :=
  .next (whenDue (finishStep s) (reportDue (finishStep s)) reportOldest)

/-- SNAPSHOT_WRITE (R167): a snapshot is pending and the notice journal has room. -/
def execSnapshotWrite (s : State) : Host.Outcome State Fault Refusal := .next (whenDue s (snapshotDue s) offerPending)

end Sys2Proof.Machine
end

