-- ==== Sys2Proof/Machine/Inspection.lean ====
section
/-! DEFINITION. The command of the camera lane links: LINE_PACKET. -/
namespace Sys2Proof.Machine

/-- LINE_PACKET (R22 to R25): the bytes of a packet arrive whole at a lane receiver. -/
def execLinePacket (lane : LaneId) (bytes : List Byte) (s : State) : Host.Outcome State Fault Refusal :=
  .next (receivePacket s lane bytes)

end Sys2Proof.Machine
end

