-- ==== Sys2Proof/Machine/Motion.lean ====
section
/-! DEFINITION. The commands that move the ribbon or end a phase of the speed gate: FORWARD_STEP, REVERSE_STEP,
RLE_PULSE, GATE_PHASE_END, STALL, SLIP_PHASE_END and SLIP_OVER. -/
namespace Sys2Proof.Machine

/-- The gantry position advances by 1 and the closed position follows where it may (R1, R68, R79). -/
def advanceGantry (s : State) : State := followClosed (s.setRtk { s.rtk with gantry := s.rtk.gantry + 1 })

/-- A forward step in ARMED raises GLASS_ADVANCE with magnitude 1 (R1). -/
def countGlass (s : State) : State :=
  if s.rtk.presence = .armed then tallyEvent s .glassAdvance 0 (some 1) else s

/-- What an advance of the gantry position leads to (R1): the trigger point and the gate counter (R4, R5), the releases
(R62, R81), the firing tests (R131, R138), the lanes' staleness and settling (R36, R35), the edge lists (R14), and the
LEVEL counters (R162). -/
def followAdvance (s : State) : State :=
  let s1 := countStep (issueTrigger (countGlass s))
  let s2 := testOutputs (releaseStretches (releaseFlaws s1))
  advanceLevels (purgeEdges (allLanes.foldl advanceLane s2))

/-- FORWARD_STEP (R1). -/
def execForwardStep (s : State) : Host.Outcome State Fault Refusal :=
  .next (followAdvance (advanceGantry (settleGate s)))

/-- REVERSE_STEP (R1): the gantry position stays and REVERSE_STEP is raised. -/
def execReverseStep (s : State) : Host.Outcome State Fault Refusal :=
  .next (tallyEvent s .reverseStep 0 none)

/-- RLE_PULSE (R7): a pulse counts in a slip phase. -/
def execRlePulse (s : State) : Host.Outcome State Fault Refusal := .next (countPulse (settleGate s))

/-- GATE_PHASE_END (R5, R8). -/
def execGatePhaseEnd (s : State) : Host.Outcome State Fault Refusal := .next (whenDue s (gateEndDue s) endGate)

/-- STALL (R6): the time counter of a gate phase that is not complete returns to 0. -/
def execStall (s : State) : Host.Outcome State Fault Refusal :=
  .next (if s.rtk.gate.phase = .gate ∧ gateEndDue s = false then afterWait s (stallWait s.rtk.gate) doStall else s)

/-- SLIP_PHASE_END (R7, R9): the time counter of a slip phase passes to 0. -/
def execSlipPhaseEnd (s : State) : Host.Outcome State Fault Refusal :=
  .next (if s.rtk.gate.phase = .slip then afterWait s (slipWait s.rtk.gate) endSlip else s)

/-- SLIP_OVER (R7): the pulse that overflows the gate counter of a slip phase. -/
def execSlipOver (s : State) : Host.Outcome State Fault Refusal := .next (whenDue s (slipFull s) overflowSlip)

end Sys2Proof.Machine
end

