-- ==== Sys2Proof/Machine/Pins.lean ====
section
/-! DEFINITION. The commands of the output lines: PULSE_END, GAP_END and NOZZLE_PULSE_END. -/
namespace Sys2Proof.Machine

/-- PULSE_END (R134): the strobe's pulse end is reached. -/
def execPulseEnd (s : State) : Host.Outcome State Fault Refusal :=
  .next (if s.out.strobe.phase = .pulse then afterWait s (waitFor s.timeBase s.out.strobe.ends) endPulse else s)

/-- GAP_END (R134): the strobe's gap end is reached. -/
def execGapEnd (s : State) : Host.Outcome State Fault Refusal :=
  .next (if s.out.strobe.phase = .gap then afterWait s (waitFor s.timeBase s.out.strobe.ends) endGap else s)

/-- NOZZLE_PULSE_END (R139): a BUSY nozzle's pulse end is reached. -/
def execNozzlePulseEnd (nozzle : Fin 4) (s : State) : Host.Outcome State Fault Refusal :=
  .next (if s.out.nozzles[nozzle].busy then
      afterWait s (waitFor s.timeBase s.out.nozzles[nozzle].ends) fun t => endNozzle t nozzle
    else s)

end Sys2Proof.Machine
end

