-- ==== Sys2Proof/Machine/Registers.lean ====
section
/-! DEFINITION. The commands that reach the part through its power and its five registers: POWER_ON, RESET, PROMPT,
ATTN_WRITE, ATTN_EN_WRITE and IGNORED_REGISTER_WRITE. -/
namespace Sys2Proof.Machine

/-- POWER_ON (R183). -/
def execPowerOn (s : State) : Host.Outcome State Fault Refusal := .next (powerUp s)

/-- RESET (R182): a write to CTRL with RESET set; with PROMPT set as well, the poll follows the control reset. A plan step
in progress comes to its end first (R109). -/
def execReset (value : BitVec 32) (written : List Host.Cell) (s : State) : Host.Outcome State Fault Refusal :=
  .next (writeCtrl (finishStep (receiveWrites s written)) value)

/-- PROMPT (R169, R182): a write to CTRL with PROMPT set makes a poll. A plan step in progress comes to its end first
(R109). -/
def execPrompt (value : BitVec 32) (written : List Host.Cell) (s : State) : Host.Outcome State Fault Refusal :=
  .next (writeCtrl (finishStep (receiveWrites s written)) value)

/-- ATTN_WRITE (R179): each cause whose bit is 1 in the value is cleared; the line follows (R180). -/
def execAttnWrite (value : BitVec 32) (s : State) : Host.Outcome State Fault Refusal :=
  .next (s.setXch (s.xch.setAttention (s.xch.attn &&& ~~~value.setWidth 8) s.xch.attnEn))

/-- ATTN_EN_WRITE (R180): the enables become the value's low eight bits (section 11.9); the line follows. -/
def execAttnEnWrite (value : BitVec 32) (s : State) : Host.Outcome State Fault Refusal :=
  .next (s.setXch (s.xch.setAttention s.xch.attn (value.setWidth 8)))

/-- IGNORED_REGISTER_WRITE (R181): a write to PART_ID or RUNSTAT changes nothing. -/
def execIgnoredRegisterWrite (_register : ReadOnlyRegister) (_value : BitVec 32) (s : State) :
    Host.Outcome State Fault Refusal :=
  .next s

end Sys2Proof.Machine
end

