-- ==== Sys2Proof/Machine/Dispatch.lean ====
section
/-! DEFINITION. One arm for each command. -/
namespace Sys2Proof.Machine

/-- A command's effect on everything but the queue. -/
def exec (i : Instr) (s : State) : Host.Outcome State Fault Refusal :=
  match i with
  | .powerOn => Sys2Proof.Machine.execPowerOn s
  | .reset value written => Sys2Proof.Machine.execReset value written s
  | .prompt value written => Sys2Proof.Machine.execPrompt value written s
  | .attnWrite value => Sys2Proof.Machine.execAttnWrite value s
  | .attnEnWrite value => Sys2Proof.Machine.execAttnEnWrite value s
  | .ignoredRegisterWrite register value => Sys2Proof.Machine.execIgnoredRegisterWrite register value s
  | .forwardStep => Sys2Proof.Machine.execForwardStep s
  | .reverseStep => Sys2Proof.Machine.execReverseStep s
  | .rlePulse => Sys2Proof.Machine.execRlePulse s
  | .gatePhaseEnd => Sys2Proof.Machine.execGatePhaseEnd s
  | .stall => Sys2Proof.Machine.execStall s
  | .slipPhaseEnd => Sys2Proof.Machine.execSlipPhaseEnd s
  | .slipOver => Sys2Proof.Machine.execSlipOver s
  | .linePacket lane bytes => Sys2Proof.Machine.execLinePacket lane bytes s
  | .pulseEnd => Sys2Proof.Machine.execPulseEnd s
  | .gapEnd => Sys2Proof.Machine.execGapEnd s
  | .nozzlePulseEnd nozzle => Sys2Proof.Machine.execNozzlePulseEnd nozzle s
  | .pollTimerExpiry written => Sys2Proof.Machine.execPollTimerExpiry written s
  | .enterHalted written => Sys2Proof.Machine.execEnterHalted written s
  | .planStep written => Sys2Proof.Machine.execPlanStep written s
  | .segmentReport => Sys2Proof.Machine.execSegmentReport s
  | .snapshotWrite => Sys2Proof.Machine.execSnapshotWrite s

end Sys2Proof.Machine
end

