-- ==== Sys2Proof/Safety.lean ====
section
/-! DEFINITION. What counts as a safe run, and the terms the statements use. -/
namespace Sys2Proof.Machine

/-- A step that goes on from `s` to `t`. -/
def StepsTo (s t : State) : Prop := step s = .next t

/-- A property that every step keeps. -/
def Invariant (p : State → Prop) : Prop := ∀ s t, p s → StepsTo s t → p t

/-- The states a run from `s` reaches. -/
inductive Reaches (s : State) : State → Prop where
  | refl : Reaches s s
  | next {t u : State} : Reaches s t → StepsTo t u → Reaches s u

/-- A run is safe for a property when every state it reaches has it. -/
def SafeRun (p : State → Prop) (s : State) : Prop := ∀ t, Reaches s t → p t

/-! ## Blocks that are sound by themselves -/

/-- The flaw serial is never 0 (R57), and the Flaw Map holds at most 2,048 entries (R60). -/
def Assembler.Sound (f : Assembler) : Prop := f.serial ≠ 0 ∧ f.map.length ≤ Config.flawMapCapacity

/-- The stretch serial is never 0 (R71), and the Blind Stretch List holds at most 32 entries (R72), each with an order of
entry of its own. -/
def Coverage.Sound (c : Coverage) : Prop :=
  c.serial ≠ 0 ∧ c.list.length ≤ Config.stretchCapacity ∧ c.list.Pairwise (fun a b => a.order ≠ b.order) ∧
    ∀ e ∈ c.list, e.order < c.entered

/-- The strobe output is high in PULSE alone (R132, R134), a nozzle's while it is BUSY alone (R139), and the Mark List
holds at most 64 entries (R136). -/
def Outputs.Sound (o : Outputs) : Prop :=
  o.strobe.high = decide (o.strobe.phase = .pulse) ∧ (∀ n : Fin 4, o.nozzles[n].high = o.nozzles[n].busy) ∧
    o.marks.length ≤ Config.markListCapacity

/-! ## Journals and the bytes the part writes -/

/-- A journal never holds more unread records than its capacity, and its capacity is one that R145 admits (R173): a power
of two from 16 to 65,536. -/
def Journal.bounded (j : Journal) : Prop :=
  ∀ p, j.place = some p → j.unread ≤ p.capacity ∧ p.capacity ∈ journalCapacities

/-- An address lies in a journal's slots. -/
def JournalPlace.holds (p : JournalPlace) (recordSize a : Nat) : Prop :=
  p.base ≤ a ∧ a < p.base + p.capacity * recordSize

/-- The bytes the part itself writes (R168): those of the Mark Block and of the slots of its journals. -/
def State.owns (s : State) (a : Nat) : Prop :=
  (Config.markBlock ≤ a ∧ a < Config.markBlock + Config.blockSize) ∨
    ∃ id p, (s.xch.journal id).place = some p ∧ p.holds id.recordSize a

/-! ## A part at rest -/

/-- Nothing waits, runs or falls due but the poll timer. -/
def State.Idle (s : State) : Prop :=
  s.pending = [] ∧ s.rtk.gate.phase = .stopped ∧ s.out.strobe.phase = .ready ∧
    (∀ n : Fin 4, s.out.nozzles[n].busy = false) ∧ s.sst.run = .halted ∧ s.cpl.state = .idle ∧ s.cpl.queue = [] ∧
    s.cpl.step = none ∧ s.tly.snapshot = none ∧ s.xch.expiryDue = false

/-! ## Frames -/

/-- The Exchange Controller but for attention, the last fault code and the counts of records written and withheld. -/
def ExchangeFrame (s t : State) : Prop :=
  t.xch.attnEn = s.xch.attnEn ∧ t.xch.pollTimer = s.xch.pollTimer ∧ t.xch.pollInterval = s.xch.pollInterval ∧
    t.xch.firstPoll = s.xch.firstPoll ∧ t.xch.edits = s.xch.edits ∧
    ∀ id, (t.xch.journal id).place = (s.xch.journal id).place ∧ (t.xch.journal id).readCopy = (s.xch.journal id).readCopy ∧
      (t.xch.journal id).lastRead = (s.xch.journal id).lastRead

/-- The bytes of exchange memory that are not the part's own. -/
def MemoryFrame (s t : State) : Prop :=
  t.mem.generation = s.mem.generation ∧ ∀ a, ¬ s.owns a → t.mem.read a = s.mem.read a

/-- What every tally event, record and notice leaves alone, the blocks apart. -/
def ReportFrame (s t : State) : Prop :=
  t.pending = s.pending ∧ t.tly = { s.tly with counters := t.tly.counters } ∧ ExchangeFrame s t ∧ MemoryFrame s t

/-! ## Polls (R169, R170, R178) -/

/-- The Mark Block shows the state as it stands (R178). -/
def MarksShown (t : State) : Prop := t.mem.readBytes Config.markBlock Config.blockSize = markBytes t

/-- A poll has just ended: the interval in force was decided, the timer restarted and the Mark Block rewritten. -/
def PollEnded (t : State) : Prop :=
  MarksShown t ∧ t.xch.pollInterval = pollIntervalNow t ∧ t.xch.pollTimer = t.xch.pollInterval * 1000

/-- The first poll of a part in state `s`, over the memory `m`, has left it in state `t`: every edit number and every
read count is a baseline, and no section is passed (R170). -/
def TookBaselines (s : State) (m : ExchangeMemory) (t : State) : Prop :=
  (∀ sec : RequestSection, t.xch.edits[sec.index] = { seen := requestEdit m sec, accepted := requestEdit m sec }) ∧
    (∀ id, t.xch.journal id = { s.xch.journal id with lastRead := requestReadCount m id }) ∧ t.xch.firstPoll = false ∧
    t.xch.attn = s.xch.attn ∧ t.xch.attnEn = s.xch.attnEn ∧ t.xch.line = s.xch.line ∧ t.xch.lastFault = s.xch.lastFault ∧
    t.pending = s.pending ∧ t.timeBase = s.timeBase ∧ t.rtk = s.rtk ∧ t.laneMask = s.laneMask ∧ t.lanes = s.lanes ∧
    t.fas = s.fas ∧ t.cov = s.cov ∧ t.cpl = s.cpl ∧ t.out = s.out ∧ t.tly = s.tly ∧ t.sst = s.sst

/-- The attention line follows ATTN and ATTN_EN (R180). -/
def LineFollows (s : State) : Prop := s.xch.line = decide (s.xch.attn &&& s.xch.attnEn ≠ 0)

/-! ## Levels and EDGE counters (R163) -/

/-- Every EDGE counter has seen the levels of its kind as they stand. -/
def EdgeCountersSee (s : State) : Prop :=
  ∀ n : Fin 16, s.tly.counters[n].config.mode = .edge →
    s.tly.counters[n].seen = some (levels s s.tly.counters[n].config.kind)

/-! ## Lanes and edges -/

/-- What R20 leaves of a lane that ceases to be enabled: its gain code and its packet counts. -/
def Lane.disabled (l : Lane) : Lane :=
  { l with state := .off, expected := none, assembly := LineInAssembly.empty, badRun := none, lastAcceptance := none,
           settleStart := none, window := none, background := none, tune := none, tunePending := false, setSeen := none }

/-- A tune's state as it begins at an expected line under line settings (R42). -/
def Tune.fresh (l : LineSettings) (expected : Nat) : Tune :=
  { trial := l.gainFloor, passes := 0, dwellStart := expected, outside := 0, judged := false }

/-- Eight consecutive values from place n on all reach the edge level (R12). -/
def EightReach (level : Nat) (values : List Nat) (n : Nat) : Prop :=
  ∀ k, k < 8 → ∃ c, values[n + k]? = some c ∧ level ≤ c

/-- What an inspection leaves alone: the time base, the gantry, the triggers, the speed gate, the lane mask, the Set
Store, the planner, the Cut List, the strobe, the nozzles and the hold, and what reports leave alone. -/
def InspectionFrame (s t : State) : Prop :=
  t.timeBase = s.timeBase ∧ t.rtk.gantry = s.rtk.gantry ∧ t.rtk.triggerBase = s.rtk.triggerBase ∧
    t.rtk.triggerCount = s.rtk.triggerCount ∧ t.rtk.gate = s.rtk.gate ∧ t.laneMask = s.laneMask ∧ t.sst = s.sst ∧
    t.cpl = s.cpl ∧ t.out = { s.out with marks := t.out.marks } ∧ ReportFrame s t

/-! ## The outputs (R131, R138) -/

/-- A segment but for what the firing of its end cut decides: its state, its LATE flag and its lateness (R123). -/
def Segment.asPlanned (g : Segment) : Segment := { g with state := .planned, late := false, lateness := 0 }

/-- The planner but for what firing cuts decide of its queue's segments. -/
def PlannerFrame (s t : State) : Prop :=
  t.cpl = { s.cpl with queue := t.cpl.queue } ∧ t.cpl.queue.map Segment.asPlanned = s.cpl.queue.map Segment.asPlanned

/-- Both lists have been tested: the Mark List's head has not reached its fire point, and the Cut List's head is either
not due and short of its fire point, or due and waiting for the strobe. -/
def OutputsTested (t : State) : Prop :=
  (∀ m, t.out.marks.head? = some m → markDue t m.yStart = false) ∧
    ∀ c, t.out.cuts.head? = some c →
      (c.due = true → t.out.strobe.phase ≠ .ready) ∧ (c.due = false → atFirePoint t c = false)

/-- A cut is handed to the Cut List (R122, R130, R131): it joins the end, and is tested when it is the only entry. A cut
that is then at its fire point fires at once when the strobe is READY, and is deferred otherwise. -/
def CutHanded (s t : State) (c : Cut) : Prop :=
  (s.out.cuts ≠ [] ∨ atFirePoint s c = false → t.out = { s.out with cuts := s.out.cuts ++ [c] }) ∧
    (s.out.cuts = [] → atFirePoint s c = true →
      (s.out.strobe.phase ≠ .ready → t.out = { s.out with cuts := [{ c with due := true, deferred := true }] }) ∧
        ∀ l, s.out.strobe.phase = .ready → s.sst.settings = some l →
          t.out = { s.out with
            strobe := { phase := .pulse, high := true, ends := s.timeBase + millis l.strobeWidth } })

/-- A cause holds a set; when it is not empty, an open entry of the list carries the cause's open part from p (R75). -/
def CarriedFrom (t : State) (oc : OpenCause) (tracks : TrackSet) (p : Pos) : Prop :=
  (t.cov.causeState oc).tracks = tracks ∧ (tracks = 0 → (t.cov.causeState oc).part = none) ∧
    (tracks ≠ 0 → ∃ carrier, (t.cov.causeState oc).part = some { start := p, carrier := carrier } ∧
      ∃ e ∈ t.cov.list, e.order = carrier ∧ e.yEnd = none ∧ e.yStart ≤ p ∧
        e.openCauses &&& oc.cause.bit = oc.cause.bit ∧ e.causes &&& oc.cause.bit = oc.cause.bit ∧
        e.tracks &&& tracks = tracks)

/-- What a change at the Coverage Unit leaves alone: every block but its own, and what reports leave alone. -/
def CoverageFrame (s t : State) : Prop :=
  t = { s with cov := t.cov, tly := t.tly, xch := t.xch, mem := t.mem } ∧ ReportFrame s t

/-- What the planner's own work in a plan step leaves alone: every block but the planner, the outputs, the Set Store and
what reports touch. -/
def PlanFrame (s t : State) : Prop :=
  t = { s with cpl := t.cpl, out := t.out, sst := t.sst, tly := t.tly, xch := t.xch, mem := t.mem } ∧ ReportFrame s t

/-- The notice journal after one more notice of a kind, urgent or not (R175, R177): written when there is room, and else
withheld; an urgent one latches its cause and sets the last fault code. -/
def Noticed (s t : State) (kind : NoticeKind) (urgent : Bool) (body : List (Nat × List Byte)) : Prop :=
  (s.xch.notice.roomFor 1 = true →
    t.xch.notice = { s.xch.notice with writeCount := s.xch.notice.writeCount + 1 } ∧
      t.mem = (writeRecords s .notice [noticeRecord s kind urgent body]).mem ∧
      (urgent = true → t.xch.attn &&& 0x08#8 ≠ 0)) ∧
    (s.xch.notice.roomFor 1 = false →
      t.xch.notice = { s.xch.notice with withheld := s.xch.notice.withheld + 1 } ∧ t.mem = s.mem ∧
        (urgent = true → t.xch.attn &&& 0x80#8 ≠ 0)) ∧
    t.xch.lastFault = (if urgent = true then BitVec.ofNat 8 kind.code else s.xch.lastFault)

/-! ## The packet a camera sends (R22) -/

/-- The header check byte: the nine header bytes sum to 0 modulo 256. -/
def checkByte (header : List Byte) : Byte := 0 - (header.foldl (· + ·) 0)

/-- The code of a view in a packet header. -/
def View.code : View → Nat
  | .transmitted => 0
  | .reflected => 1
  | .scattered => 2

/-- The packet of a lane's camera for line number `n` and a view, with its pixels in the order of their index. -/
def packetOf (lane : LaneId) (n : Nat) (view : View) (pixels : List Nat) : List Byte :=
  let header := le 1 lane.val ++ le 1 view.code ++ le 4 n ++ le 2 pixels.length
  let payload := pixels.flatMap (le 2)
  header ++ [checkByte header] ++ payload ++ le 2 (crc16 payload).toNat

/-! ## The planner and the run state (R104) -/

/-- The cuts listed stand in strictly increasing position, none beyond the frontier (R122, R130). -/
def CutsInOrder (s : State) : Prop :=
  s.out.cuts.Pairwise (fun a b => a.position < b.position) ∧
    ∀ f, s.cpl.frontier = some f → ∀ c ∈ s.out.cuts, c.position ≤ f

/-- A plan step in progress belongs to a run, works from the frontier and the line settings as they stand, and finds the
room that its stages 3 and 4 found (R108, R109). -/
def StepInOrder (s : State) : Prop :=
  ∀ p, s.cpl.step = some p →
    s.sst.run = .running ∧ s.cpl.frontier = some p.view.frontier ∧ s.sst.settings = some p.view.settings ∧
      s.out.cuts.length < Config.cutListCapacity ∧
      (p.runout = false → s.cpl.queue.length < Config.segmentQueueCapacity)

/-- The planner's state, its frontier and the Cut List as the run state has them, with the lists within their bounds, the
cuts in order, and the cullet lengths as accepted line settings have them (R145). -/
def PlannerFollows (s : State) : Prop :=
  s.cpl.queue.length ≤ Config.segmentQueueCapacity ∧ s.out.cuts.length ≤ Config.cutListCapacity ∧ CutsInOrder s ∧
    StepInOrder s ∧ (∀ l, s.sst.settings = some l → 0 < l.culletMin ∧ l.culletMin ≤ l.culletMax) ∧
    match s.sst.run with
    | .halted => s.cpl.state = .idle ∧ s.cpl.frontier = none ∧ s.out.cuts = []
    | .running =>
      s.cpl.state.plans = true ∧ s.cpl.frontier.isSome = true ∧ s.sst.settings.isSome = true ∧ s.sst.current.isSome = true
    | .draining =>
      s.cpl.state = .draining ∧ s.cpl.frontier.isSome = true ∧ s.sst.settings.isSome = true ∧
        s.sst.current.isSome = true

end Sys2Proof.Machine
end

