-- ==== Sys2Proof/WellFormed.lean ====
section
/-! DEFINITION. Which commands the outside can send. A command that fails the check still has a total meaning; the
check only says that the row's own words describe it. -/
namespace Sys2Proof

/-- The computer can write only to the 256 MiB of exchange memory (R168). -/
def writesInWindow (written : List Host.Cell) : Bool :=
  written.all fun c => decide (c.1 < Config.windowSize)

/-- The bytes the computer has stored since the last command that reads the exchange memory, as a command carries
them. -/
def Instr.written : Instr → List Host.Cell
  | .powerOn => []
  | .reset _ written => written
  | .prompt _ written => written
  | .attnWrite _ => []
  | .attnEnWrite _ => []
  | .ignoredRegisterWrite _ _ => []
  | .forwardStep => []
  | .reverseStep => []
  | .rlePulse => []
  | .gatePhaseEnd => []
  | .stall => []
  | .slipPhaseEnd => []
  | .slipOver => []
  | .linePacket _ _ => []
  | .pulseEnd => []
  | .gapEnd => []
  | .nozzlePulseEnd _ => []
  | .pollTimerExpiry written => written
  | .enterHalted written => written
  | .planStep written => written
  | .segmentReport => []
  | .snapshotWrite => []

/-- A command as its row describes it: a RESET write has bit 0 of CTRL set; a PROMPT write has bit 1 set and bit 0
clear (with both set the write is a RESET row, R182); computer writes lie in the window. -/
def Instr.wellFormed : Instr → Bool
  | .powerOn => true
  | .reset value written => value.getLsbD 0 && writesInWindow written
  | .prompt value written => value.getLsbD 1 && !value.getLsbD 0 && writesInWindow written
  | .attnWrite _ => true
  | .attnEnWrite _ => true
  | .ignoredRegisterWrite _ _ => true
  | .forwardStep => true
  | .reverseStep => true
  | .rlePulse => true
  | .gatePhaseEnd => true
  | .stall => true
  | .slipPhaseEnd => true
  | .slipOver => true
  | .linePacket _ _ => true
  | .pulseEnd => true
  | .gapEnd => true
  | .nozzlePulseEnd _ => true
  | .pollTimerExpiry written => writesInWindow written
  | .enterHalted written => writesInWindow written
  | .planStep written => writesInWindow written
  | .segmentReport => true
  | .snapshotWrite => true

end Sys2Proof
end

