-- ==== Sys2Proof/Certificates/Slice0/Obligations.lean ====
section
/-! DEFINITION. The statements for the provers, in the order of OBLIGATIONS.json. -/
open Sys2Proof Sys2Proof.Machine

/-! ## The step, the resets, the polls and the registers -/

/-- A step of a state with a command at the front of its queue is `exec` of that command on the state with the queue's
rest. That `exec` answers a next state for every command and every state, a command whose moment has not come included,
is the model's choice (log entry 26). So is what a step does on an empty queue (log entry 6): with nothing waiting,
running or due but the poll timer, it lets the time pass that the timer still has to run, and with the timer run out it
makes the poll. -/
def Obligations.StepRunsTheFrontCommand : Prop :=
  (∀ (c : Instr) (rest : List Instr) (s : State), s.pending = c :: rest → step s = exec c (s.setPending rest)) ∧
    (∀ (c : Instr) (s : State), ∃ t, exec c s = .next t) ∧
    ∀ s : State, s.Idle →
      (s.xch.pollTimer = 0 → step s = .next (poll s)) ∧
        (s.xch.pollTimer ≠ 0 →
          step s = .next { s with timeBase := s.timeBase + BitVec.ofNat 48 s.xch.pollTimer,
                                  xch := { s.xch with pollTimer := 0 } })

/-- No command changes the queue of commands that wait, POWER_ON and the resets included, and a step takes at most the
command at its front. The queue is the model's own, and that it survives a reset is the model's choice (log entry
31). -/
def Obligations.CommandsLeaveTheQueue : Prop :=
  (∀ (c : Instr) (s t : State), exec c s = .next t → t.pending = s.pending) ∧
    ∀ s t : State, StepsTo s t → t.pending = s.pending.tail

/-- POWER_ON (R183): the Exchange Controller has the state a control reset gives it, the gantry position and the time base
start from 0, and the memory's contents are those of a new power-on, which no value is known of (log entry 1). RESET
(R182): a write to CTRL with bit 0 set returns every block to its reset state; the gantry position, the time base and the
exchange memory go on, CTRL reads 0, and a poll of a timer expiry that comes together with the reset is still to be made
(log entry 43). With bit 1 set as well a poll follows, the first after the reset. The first poll after either takes its
baselines and passes nothing (R170). The reset values the chapters do not give are the model's choice (log entry 4). -/
def Obligations.ResetsStartAfresh : Prop :=
  (∀ s : State, ∃ t, exec .powerOn s = .next t ∧
    t = { State.reset with pending := s.pending, mem := { generation := s.mem.generation + 1, cells := [] } } ∧
    t.rtk.gantry = 0 ∧ t.timeBase = 0 ∧ t.xch = Exchange.reset ∧
    (∀ a, t.mem.read a = Config.undefinedByte (s.mem.generation + 1) a) ∧
    ∀ (value : BitVec 32) (written : List Host.Cell), value.getLsbD 1 = true → value.getLsbD 0 = false →
      ∃ u, exec (.prompt value written) t = .next u ∧ TookBaselines t (t.mem.storeCells written) u) ∧
  ∀ (s : State) (value : BitVec 32) (written : List Host.Cell), value.getLsbD 0 = true →
    let r : State :=
      { pending := s.pending, timeBase := s.timeBase, rtk := Tracker.reset s.rtk.gantry, laneMask := 0,
        lanes := Vector.replicate 12 Lane.reset, fas := Assembler.reset, cov := Coverage.reset, cpl := Planner.reset,
        out := Outputs.reset, tly := Tallies.reset s.rtk.gantry s.timeBase, sst := Store.reset,
        xch := { Exchange.reset with expiryDue := s.xch.expiryDue || decide (s.xch.pollTimer = 0) }
        mem := s.mem.storeCells written }
    (value.getLsbD 1 = false → exec (.reset value written) s = .next r) ∧
      (value.getLsbD 1 = true → ∃ t, exec (.reset value written) s = .next t ∧ TookBaselines r r.mem t) ∧
      r.xch.attn = 0 ∧ r.xch.attnEn = 0 ∧ r.xch.line = false ∧ r.xch.lastFault = 0 ∧ r.xch.firstPoll = true ∧
      r.xch.pollTimer = 5000 ∧
      (∀ id, (r.xch.journal id).place = none ∧ (r.xch.journal id).writeCount = 0 ∧ (r.xch.journal id).readCopy = 0 ∧
        (r.xch.journal id).withheld = 0 ∧ (r.xch.journal id).badRead = false) ∧
      readRegister s 0x04 = some 0

/-- A PROMPT makes a poll, after the bytes the computer stored and after the end of a plan step in progress (log entry 23).
The first poll after power-on or a control reset (R170) records every edit number and every read count as a baseline,
passes no section, judges no read count, and leaves every block but the Exchange Controller as it was. A later one, with
no edit number and no read count changed, changes nothing but the poll timer and the Mark Block (R169, R170). -/
def Obligations.PollsTakeWhatChanged : Prop :=
  ∀ (s : State) (value : BitVec 32) (written : List Host.Cell), value.getLsbD 1 = true → value.getLsbD 0 = false →
    let u := finishStep (receiveWrites s written)
    (u.xch.firstPoll = true → ∃ t, exec (.prompt value written) s = .next t ∧ TookBaselines u u.mem t) ∧
    (u.xch.firstPoll = false → (∀ sec : RequestSection, requestEdit u.mem sec = u.xch.edits[sec.index].seen) →
      (∀ id, requestReadCount u.mem id = (u.xch.journal id).lastRead) →
      ∃ t, exec (.prompt value written) s = .next t ∧
        t = { u with
              xch := { u.xch with pollInterval := t.xch.pollInterval, pollTimer := t.xch.pollTimer,
                                  expiryDue := expired u }
              mem := t.mem } ∧
        ∀ a, (a < Config.markBlock ∨ Config.markBlock + Config.blockSize ≤ a) → t.mem.read a = u.mem.read a) ∧
    (s.cpl.step = none → u = { s with mem := s.mem.storeCells written })

/-- A poll after the first takes the read counts, in an order that R170 leaves open (log entry 42), then passes the seven
sections in the table's order, and ends with the timer and the Mark Block. A section whose edit number has not changed
is not acted on. One whose number differs has it recorded as last seen and is passed, with its contents as the Request
Block holds them (section 11.2), to its owner, which acts within the poll; the lane, marker, tally and run sections'
numbers become the last accepted at once. No section's passing changes another's last seen number. -/
def Obligations.PollPassesChangedSections : Prop :=
  (∀ (s : State) (value : BitVec 32) (written : List Host.Cell), value.getLsbD 1 = true → value.getLsbD 0 = false →
    let u := finishStep (receiveWrites s written)
    u.xch.firstPoll = false →
      exec (.prompt value written) s = .next (rewriteMarks (restartTimer
        ([RequestSection.settings, .productSet, .lane, .marker, .tally, .amendment, .run].foldl passSection
          ([JournalId.flaw, .plate, .notice].foldl takeReadCount (setExpiry u (expired u))))))) ∧
  (∀ (s : State) (sec : RequestSection), requestEdit s.mem sec = s.xch.edits[sec.index].seen → passSection s sec = s) ∧
  ∀ (s : State) (sec : RequestSection),
    let e := requestEdit s.mem sec
    let t := passSection s sec
    let seen : State := { s with xch := { s.xch with
      edits := s.xch.edits.set sec.index { s.xch.edits[sec.index] with seen := e } } }
    let accepted : State := { s with xch := { s.xch with edits := s.xch.edits.set sec.index { seen := e, accepted := e } } }
    e ≠ s.xch.edits[sec.index].seen →
      t.xch.edits[sec.index].seen = e ∧
      (∀ other, other ≠ sec → t.xch.edits[other.index].seen = s.xch.edits[other.index].seen) ∧
      (sec = .lane ∨ sec = .marker ∨ sec = .tally ∨ sec = .run → t.xch.edits[sec.index].accepted = e) ∧
      (sec = .settings → t = passSettings seen { edit := e, offset := s.mem.readLe 0x44 4 }) ∧
      (sec = .productSet → t = passSet seen { edit := e, offset := s.mem.readLe 0x4C 4 }) ∧
      (sec = .lane →
        t = takeLaneSection accepted (BitVec.ofNat 12 (s.mem.readLe 0x54 2)) (BitVec.ofNat 12 (s.mem.readLe 0x56 2))) ∧
      (sec = .marker → t = takeHold accepted (decide (s.mem.readLe 0x5C 1 % 2 = 1))) ∧
      (sec = .tally → t = takeTallySection accepted
        { clear := BitVec.ofNat 16 (s.mem.readLe 0x84 2), freeze := decide (s.mem.readLe 0x86 1 % 2 = 1),
          shift := BitVec.ofNat 32 (s.mem.readLe 0x88 4), configs := Vector.ofFn fun n => requestConfig s.mem n.val }) ∧
      (sec = .amendment → t = takeAmendment seen (BitVec.ofNat 32 (s.mem.readLe 0x64 4))
        { edit := e, line := s.mem.readLe 0x68 1, quantity := quantityOf (s.mem.readLe 0x6A 2) }) ∧
      (sec = .run → t = passRun seen e (decide (s.mem.readLe 0x74 4 = 1)))

/-- Every poll ends with the poll interval decided and the timer restarted (R169) and the Mark Block rewritten (R178),
whether a PROMPT, a RESET written with PROMPT, or the poll timer made it. When the timer does so nothing else falls due
before it (log entry 5), and the time base has moved on by what the timer had to run. A PROMPT and a timer expiry that
come together make two polls, and a reset leaves such an expiry its poll (R169, R182): the expiry stays due, and its poll
is made at once when it is taken (log entry 43). The interval is decided with the settings the poll leaves in force (log
entry 20), and the Mark Block's fields are of one moment with its reserved bytes 0 (log entry 21). -/
def Obligations.EveryPollShowsTheState : Prop :=
  ∀ (s : State) (written : List Host.Cell), s.mem.wf = true →
    (∀ value : BitVec 32, value.getLsbD 1 = true →
      (∃ t, exec (.prompt value written) s = .next t ∧ PollEnded t ∧ t.xch.expiryDue = expired s) ∧
        ∃ t, exec (.reset value written) s = .next t ∧ PollEnded t ∧ t.xch.expiryDue = expired s) ∧
      (pollWait s ≤ nextWait s →
        ∃ t, exec (.pollTimerExpiry written) s = .next t ∧ PollEnded t ∧ t.xch.expiryDue = false ∧
          t.timeBase = s.timeBase + BitVec.ofNat 48 (pollWait s)) ∧
      (expired s = (s.xch.expiryDue || decide (s.xch.pollTimer = 0)) ∧
        (expired s = true → pollWait s = 0 ∧ pollWait s ≤ nextWait s) ∧
        (s.xch.expiryDue = false → pollWait s = s.xch.pollTimer)) ∧
      ∀ t, PollEnded t → t.mem.readLe 0x1008 1 = t.sst.run.code ∧ t.mem.readLe 0x1018 8 = t.rtk.gantry.toNat ∧
        t.mem.readLe 0x1054 4 = t.rtk.gate.heldSpeed.toNat

/-- The writes to ATTN, ATTN_EN and the two registers that ignore them, and what a read of each register returns (R179,
R180, R181, section 11.9). ATTN_EN keeps the value's low eight bits. -/
def Obligations.RegisterWrites : Prop :=
  (∀ (v : BitVec 32) (s : State),
    let attn := s.xch.attn &&& ~~~(v.setWidth 8)
    exec (.attnWrite v) s =
      .next { s with xch := { s.xch with attn := attn, line := decide (attn &&& s.xch.attnEn ≠ 0) } }) ∧
    (∀ (v : BitVec 32) (s : State),
      let en : BitVec 8 := v.setWidth 8
      exec (.attnEnWrite v) s =
        .next { s with xch := { s.xch with attnEn := en, line := decide (s.xch.attn &&& en ≠ 0) } }) ∧
    (∀ (r : ReadOnlyRegister) (v : BitVec 32) (s : State), exec (.ignoredRegisterWrite r v) s = .next s) ∧
    ∀ s : State,
      readRegister s 0x00 = some 0x57442403#32 ∧ readRegister s 0x04 = some 0 ∧
        (∃ v, readRegister s 0x08 = some v ∧ v.toNat = s.xch.attn.toNat) ∧
        (∃ v, readRegister s 0x0C = some v ∧ v.toNat = s.xch.attnEn.toNat) ∧
        ∃ v, readRegister s 0x10 = some v ∧ v.toNat % 4 = s.sst.run.code ∧
          v.getLsbD 2 = s.sst.waitingSet.isSome ∧ v.toNat / 256 = s.xch.lastFault.toNat

/-- R180. In every state a run from reset reaches, and after every step of a state in which it does, the attention line is
asserted exactly while some cause is both latched and enabled. ATTN_EN changes by a write to it and by the resets
alone, and while it is 0 the line is released. -/
def Obligations.AttentionLineFollows : Prop :=
  Invariant LineFollows ∧
    (∀ (c : Instr) (s t : State), LineFollows s → exec c s = .next t →
      LineFollows t ∧
        (t.xch.attnEn = s.xch.attnEn ∨ (∃ v, c = .attnEnWrite v) ∨
          (c = .powerOn ∨ ∃ v w, v.getLsbD 0 = true ∧ (c = .reset v w ∨ c = .prompt v w)) ∧ t.xch.attnEn = 0 ∧
            t.xch.line = false)) ∧
    (∀ (v : BitVec 32) (s t : State), exec (.attnEnWrite v) s = .next t →
      t.xch.attn = s.xch.attn ∧ t.xch.attnEn = v.setWidth 8 ∧ LineFollows t) ∧
    (∀ (v : BitVec 32) (s t : State), exec (.attnWrite v) s = .next t → LineFollows t) ∧
    (∀ s : State, LineFollows s →
      (s.xch.line = true ↔ ∃ c : AttnCause, s.xch.attn &&& c.bit ≠ 0 ∧ s.xch.attnEn &&& c.bit ≠ 0) ∧
        (s.xch.attnEn = 0 → s.xch.line = false)) ∧
    (∀ s : State, readRegister s 0x0C = some (s.xch.attnEn.setWidth 32)) ∧ LineFollows State.reset

/-- The lane section is taken (R20, R42): the mask first, then the tune requests, within each in increasing lane number
(log entry 39). A lane that the mask and the settings do not enable is OFF, with its gain code and packet counts kept; one
they enable leaves OFF for WAIT_SIGNAL and is otherwise not changed by the mask. A request in OFF is ignored; in
WAIT_SIGNAL, SETTLING and LOST it sets tune pending; in LIVE, DEGRADED, TUNING and FAULT a tune begins at the floor and
the lane's expected line. A lane that leaves the inspecting states keeps no open blob. The rest of the part is left as
every inspection leaves it. -/
def Obligations.LaneSectionIsTaken : Prop :=
  ∀ (s : State) (l : LineSettings) (mask tune : BitVec 12), s.sst.settings = some l →
    let t := takeLaneSection s mask tune
    t.laneMask = mask ∧ InspectionFrame { s with laneMask := mask } t ∧
    ∀ i : LaneId,
      let old := s.lane i
      let on : Prop := l.lanes[i].fitted = true ∧ mask.getLsbD i = true
      let asked : Prop := tune.getLsbD i = true
      (¬ on → t.lane i = if old.state = .off then old else old.disabled) ∧
      (on → ¬ asked → t.lane i = if old.state = .off then { old with state := .waitSignal } else old) ∧
      (on → asked →
        (old.state = .off → t.lane i = { old with state := .waitSignal, tunePending := true }) ∧
        (old.state = .waitSignal ∨ old.state = .settling ∨ old.state = .lost →
          t.lane i = { old with tunePending := true }) ∧
        (old.state = .tuning ∨ old.state = .fault →
          t.lane i = { old with state := .tuning, tune := some (Tune.fresh l (old.expected.getD 0)), tunePending := false }) ∧
        (old.state = .live ∨ old.state = .degraded →
          t.lane i = { old with state := .tuning, assembly := LineInAssembly.empty, badRun := none, window := none,
                                background := none, tune := some (Tune.fresh l (old.expected.getD 0)),
                                tunePending := false })) ∧
      (old.state.inspecting = true → ¬ on ∨ asked → openBlobs t i = [])

/-- The tally section is taken (R158, R159, R165). The requested shift is set and tested first, so a shift it takes
records the old configurations. Then each counter whose corrected configuration differs takes it, with its preload, a
clear flag and, in EDGE mode, the levels as they stand; an equal one changes nothing. Then the clear-overflow mask clears
its flags, and the freeze becomes as the section says. The correction: a kind code that names none is NONE; an event
kind's mode is SUM or COUNT and a level kind's EDGE or LEVEL; the preload is taken modulo 2^40. -/
def Obligations.TallySectionIsTaken : Prop :=
  (∀ (s : State) (sec : TallySection),
    let t := takeTallySection s sec
    let due : Prop := sec.shift ≠ s.tly.shiftTaken ∧ s.tly.snapshot = none
    t.tly.requestedShift = sec.shift ∧ t.tly.freeze = sec.freeze ∧
    (due → t.tly.shiftTaken = sec.shift ∧ t.tly.shiftStart = s.rtk.gantry ∧ t.tly.shiftStartTime = s.timeBase ∧
      t.tly.snapshot.isSome = !s.xch.notice.roomFor 1) ∧
    (¬ due → t.tly.shiftTaken = s.tly.shiftTaken ∧ t.tly.shiftStart = s.tly.shiftStart ∧
      t.tly.shiftStartTime = s.tly.shiftStartTime ∧ t.tly.snapshot = s.tly.snapshot ∧ t = { s with tly := t.tly }) ∧
    (∀ n : Fin 16,
      let old := s.tly.counters[n]
      let config := sec.configs[n]
      let ended : Prop := due ∧ old.config.clearAtShiftEnd = true
      (old.config = config →
        (¬ ended → t.tly.counters[n] = { old with overflow := old.overflow && !sec.clear.getLsbD n.val }) ∧
          (ended → t.tly.counters[n] = { old with value := old.config.preload, overflow := false })) ∧
      (old.config ≠ config →
        t.tly.counters[n] =
          { value := config.preload, overflow := false, config := config,
            seen := if config.mode = .edge then some (levels s config.kind) else none })) ∧
    t.timeBase = s.timeBase ∧ t.rtk = s.rtk ∧ t.lanes = s.lanes ∧ t.laneMask = s.laneMask ∧ t.fas = s.fas ∧
      t.cov = s.cov ∧ t.cpl = s.cpl ∧ t.out = s.out ∧ t.sst = s.sst ∧ ExchangeFrame s t ∧ MemoryFrame s t) ∧
  ∀ (m : ExchangeMemory) (n : Nat),
    let c := requestConfig m n
    let a := 0x90 + 24 * n
    (m.readLe a 1 < 24 → c.kind.code = m.readLe a 1) ∧ (24 ≤ m.readLe a 1 → c.kind = .none) ∧
      (c.kind.isLevel = false → c.mode = if m.readLe (a + 1) 1 = 1 then .sum else .count) ∧
      (c.kind.isLevel = true → c.mode = if m.readLe (a + 1) 1 = 3 then .edge else .level) ∧
      c.preload.toNat = m.readLe (a + 12) 8 % 2 ^ 40 ∧ c.mask = BitVec.ofNat 16 (m.readLe (a + 4) 2) ∧
      c.threshold = BitVec.ofNat 32 (m.readLe (a + 8) 4)

/-- Line settings are taken (R144, R146). In RUNNING and DRAINING the section waits. In HALTED it is acted on: refused with
SETTINGS_REFUSED and nothing else, or taken, and then a set section that waits for settings and the run are tried. A
taking is one event: the triggers restart here with count 0 (R3); a gate phase begins (R10); edges, presence and widths
start over (R15, R17); every lane is disabled and enters WAIT_SIGNAL if fitted and in the mask, its gain and counts kept
(R21); the journals are placed with nothing unread (R171); and the Mark List is emptied (R141). The time base, the
gantry, the Cut List, the strobe, the nozzles, the hold, the sets and the planner's plans go on. -/
def Obligations.SettingsAreTaken : Prop :=
  (∀ (s : State) (w : WaitingSection), s.sst.run ≠ .halted →
    passSettings s w = { s with sst := { s.sst with waitingSettings := some w } }) ∧
  (∀ (s : State) (w : WaitingSection), s.sst.run = .halted →
    let cleared : State := { s with sst := { s.sst with waitingSettings := none } }
    let image := readSettings s.mem w.offset
    let fits := imagePlaced w.offset 256
    (fits = true → checkSettings image.value = none →
      passSettings s w = testRun (actOnWaitingSet (takeSettings cleared w.edit image) .noSettings)) ∧
    ((fits = false ∨ checkSettings image.value ≠ none) →
      let t := passSettings s w
      t.sst = cleared.sst ∧ t.rtk = s.rtk ∧ t.lanes = s.lanes ∧ t.out = s.out ∧ t.cpl = s.cpl ∧
        t.xch.edits = s.xch.edits ∧ (s.xch.notice.roomFor 1 = true → t.xch.lastFault = 8))) ∧
  ∀ (s : State) (edit : BitVec 32) (c : Clamped LineSettings),
    let t := takeSettings s edit c
    t.sst = { s.sst with settings := some c.value, waitingSettings := none } ∧
    t.rtk = { s.rtk with
      triggerBase := s.rtk.gantry, triggerCount := 0
      gate := { s.rtk.gate with phase := .gate, gateCounter := 0 - BitVec.ofNat 24 c.value.gateLength, timeCounter := 0,
                                counted := false }
      drive := { found := false, filtered := 0, pending := [] }, operator := { found := false, filtered := 0, pending := [] }
      presence := .disarmed, streak := none, violated := 0, observedSet := none, checkedSet := none } ∧
    (∀ i : LaneId, ∃ l, (l = if (s.lane i).state = .off then s.lane i else (s.lane i).disabled) ∧
      t.lane i = if c.value.lanes[i].fitted = true ∧ s.laneMask.getLsbD i = true then { l with state := .waitSignal } else l) ∧
    t.laneMask = s.laneMask ∧ t.timeBase = s.timeBase ∧ t.pending = s.pending ∧
    t.out = { s.out with marks := [] } ∧ (∃ reported, s.cpl.queue = reported ++ t.cpl.queue) ∧
    t.cpl = { s.cpl with queue := t.cpl.queue } ∧ t.xch.edits[RequestSection.settings.index].accepted = edit ∧
    t.xch.pollTimer = s.xch.pollTimer ∧ t.xch.firstPoll = s.xch.firstPoll ∧
    (∀ id : JournalId,
      let j := s.xch.journal id
      let place := match id with
        | .flaw => c.value.flawPlace
        | .plate => c.value.platePlace
        | .notice => c.value.noticePlace
      (t.xch.journal id).place = some place ∧ (t.xch.journal id).readCopy = j.writeCount ∧
        (t.xch.journal id).badRead = false ∧ (t.xch.journal id).lastRead = j.lastRead)

/-! ## The ribbon -/

/-- FORWARD_STEP (R1, R4, R5) adds 1 to the gantry position, modulo 2^48, issues the trigger whose point it reaches, and
counts in a gate phase that has not come to its end; it leaves the time base, the trigger base, presence, the Set Store,
the marker hold and the shifts alone, and the planner too but for the state, the LATE flag and the lateness of its
queue's segments. No other command but POWER_ON moves the gantry position. -/
def Obligations.GantryMovesByForwardSteps : Prop :=
  (∀ s : State, ∃ t, exec .forwardStep s = .next t ∧
    t.rtk.gantry = s.rtk.gantry + 1 ∧ t.rtk.triggerBase = s.rtk.triggerBase ∧
    t.rtk.triggerCount =
      (if s.sst.settings.isSome = true ∧
          s.rtk.gantry + 1 = s.rtk.triggerBase + (s.rtk.triggerCount + 1) * BitVec.ofNat 48 (linePitch s)
        then s.rtk.triggerCount + 1 else s.rtk.triggerCount) ∧
    (gateEndDue s = false → stallDue s = false → slipEndDue s = false →
      t.rtk.gate = if s.rtk.gate.phase = .gate then { s.rtk.gate with gateCounter := s.rtk.gate.gateCounter + 1 }
        else s.rtk.gate) ∧
    t.rtk.presence = s.rtk.presence ∧ t.rtk.violated = s.rtk.violated ∧ t.timeBase = s.timeBase ∧
    t.laneMask = s.laneMask ∧ t.sst = s.sst ∧ PlannerFrame s t ∧ t.out.hold = s.out.hold ∧ ReportFrame s t) ∧
  ∀ (c : Instr) (s t : State), exec c s = .next t → c ≠ .powerOn → c ≠ .forwardStep → t.rtk.gantry = s.rtk.gantry

/-- R62 and R81. After an advance the Flaw Map holds no flaw, and the Blind Stretch List no closed entry, whose Y end is at
or below the cutter position; what stays keeps its order. A flaw's release is tested at the taking of line settings too.
A stretch's release leaves the rest of the list, the open entries and every other block as they are, so it writes no
notice. A part that closes at or behind the cutter leaves at once, and a stretch entered closed there is not held. -/
def Obligations.ForwardStepReleases : Prop :=
  ((∀ s t : State, exec .forwardStep s = .next t →
    (∀ e ∈ t.fas.map, passedCutter t e.flaw.yEnd = false) ∧
      (s.fas.map.filter fun e => !passedCutter t e.flaw.yEnd).Sublist t.fas.map ∧
      (s.fas.map.length ≤ 2048 → t.fas.map.length ≤ 2048)) ∧
    ∀ (s : State) (edit : BitVec 32) (c : Clamped LineSettings),
      ∀ e ∈ (takeSettings s edit c).fas.map, passedCutter (takeSettings s edit c) e.flaw.yEnd = false) ∧
  (∀ s t : State, exec .forwardStep s = .next t →
    ∀ e ∈ t.cov.list, ∀ y, e.openCauses = 0 → e.yEnd = some y → passedCutter t y = false) ∧
    (∀ s : State, ∃ l : List Stretch, releaseStretches s = { s with cov := { s.cov with list := l } } ∧
      l.Sublist s.cov.list ∧ (∀ e ∈ s.cov.list, e.openCauses ≠ 0 → e ∈ l) ∧
      ∀ e ∈ s.cov.list, ∀ y, e.yEnd = some y → passedCutter s y = false → e ∈ l) ∧
    (∀ (s : State) (oc : OpenCause) (p : Pos) (part : OpenPart), (s.cov.causeState oc).part = some part →
      ∀ e ∈ (closePart s oc p).cov.list, e.order = part.carrier → ∀ y, e.openCauses = 0 → e.yEnd = some y →
        passedCutter s y = false) ∧
    ∀ (s : State) (inc : Incoming) (y : Pos), inc.yEnd = some y → passedCutter s y = true →
      (enterStretch s inc).cov.list = s.cov.list

/-- R11. The leads are floor(held speed × delay / 1000) at every moment, so they follow the held speed and the line
settings; the firing tests of both lists use them. After FORWARD_STEP and after GATE_PHASE_END both output lists have
been tested against the new position and the new leads (R131, R138, R142): no mark at the head has reached its fire
point, and a cut at the head that has waits for the strobe. -/
def Obligations.LeadsFollowTheHeldSpeed : Prop :=
  ((∀ (s : State) (l : LineSettings), s.sst.settings = some l →
    cutterLead s = s.rtk.gate.heldSpeed.toNat * l.cutterDelay / 1000 ∧
      markerLead s = s.rtk.gate.heldSpeed.toNat * l.markerDelay / 1000 ∧
      (∀ c : Cut, atFirePoint s c = true ↔
        c.position - (s.rtk.gate.heldSpeed.toNat * l.cutterDelay / 1000 : Nat) ≤ (s.rtk.gantry.toNat : Int) - l.cutterDistance) ∧
      (∀ y : Pos, markDue s y = true ↔
        y - (s.rtk.gate.heldSpeed.toNat * l.markerDelay / 1000 : Nat) ≤ (s.rtk.gantry.toNat : Int) - l.markerDistance)) ∧
    (∀ s : State, s.rtk.gate.heldSpeed = 0 → cutterLead s = 0 ∧ markerLead s = 0) ∧
    leadOf 7000 120 = 840 ∧ leadOf 7000 35 = 245) ∧
  (∀ s t : State, exec .forwardStep s = .next t → OutputsTested t) ∧
    ∀ s t : State, gateEndDue s = true → exec .gatePhaseEnd s = .next t → OutputsTested t

/-- GATE_PHASE_END (R5, R8): at the end of a gate phase the elapsed time is 2^24 − time counter, or 1 before the first
decrement, the speed is floor(gate length × 1,000,000 / T) saturated at 2^32 − 1, the stalled flag is cleared and the
slip phase begins. A phase that is not at its end goes on: the command has no effect (log entry 5); one whose time
counter has returned to 0 as well is a STALL first (log entry 34). STALL (R6): when the time counter returns to 0 before
the gate counter completes, the speed becomes 0, the held speed keeps its value, the stalled flag is set and a new gate
phase begins; it is reported only when the flag was clear. It is the next event by time (log entry 5). -/
def Obligations.GatePhases : Prop :=
  ((∀ (s : State) (l : LineSettings), s.sst.settings = some l → s.rtk.gate.phase = .gate → s.rtk.gate.gateCounter = 0 →
    ¬ (s.rtk.gate.counted = true ∧ s.rtk.gate.timeCounter = 0) →
    ∃ t, exec .gatePhaseEnd s = .next t ∧
      (∃ (T : BitVec 24) (v : BitVec 32),
        T.toNat = (if s.rtk.gate.counted = true then 2 ^ 24 - s.rtk.gate.timeCounter.toNat else 1) ∧
        v.toNat = min (l.gateLength * 1000000 / T.toNat) (2 ^ 32 - 1) ∧
        t.rtk = { s.rtk with
          gate := { s.rtk.gate with phase := .slip, gateCounter := 0, timeCounter := 0 - T, counted := false,
                                    elapsed := T, speed := v, heldSpeed := v, stalled := false } }) ∧
      t.timeBase = s.timeBase ∧ t.laneMask = s.laneMask ∧ t.lanes = s.lanes ∧ t.fas = s.fas ∧ t.cov = s.cov ∧
      t.sst = s.sst ∧ PlannerFrame s t ∧ t.out.hold = s.out.hold ∧ ReportFrame s t) ∧
    ∀ s : State, gateEndDue s = false → exec .gatePhaseEnd s = .next s) ∧
  ∀ (s : State) (l : LineSettings), s.sst.settings = some l → s.rtk.gate.phase = .gate → gateEndDue s = false →
    stallWait s.rtk.gate ≤ nextWait s →
    ∃ t, exec .stall s = .next t ∧
      t.rtk = { s.rtk with
        gate := { s.rtk.gate with gateCounter := 0 - BitVec.ofNat 24 l.gateLength, timeCounter := 0, counted := false,
                                  speed := 0, stalled := true } } ∧
      t.timeBase = s.timeBase + BitVec.ofNat 48 (stallWait s.rtk.gate) ∧
      t.xch.pollTimer = s.xch.pollTimer - stallWait s.rtk.gate ∧
      t.laneMask = s.laneMask ∧ t.lanes = s.lanes ∧ t.fas = s.fas ∧ t.cov = s.cov ∧ t.sst = s.sst ∧ t.cpl = s.cpl ∧
      t.out = s.out ∧ t.tly = { s.tly with counters := t.tly.counters } ∧ MemoryFrame s t ∧
      (s.rtk.gate.stalled = true →
        t.tly = s.tly ∧ t.mem = s.mem ∧ t.xch = { s.xch with pollTimer := s.xch.pollTimer - stallWait s.rtk.gate }) ∧
      (s.rtk.gate.stalled = false →
        t.xch.lastFault = 5 ∧
        (s.xch.notice.roomFor 1 = true →
          t.xch.attn &&& 0x08#8 ≠ 0 ∧ t.xch.notice.writeCount = s.xch.notice.writeCount + 1 ∧
            t.xch.notice.withheld = s.xch.notice.withheld) ∧
        (s.xch.notice.roomFor 1 = false →
          t.xch.attn &&& 0x80#8 ≠ 0 ∧ t.xch.notice.writeCount = s.xch.notice.writeCount ∧
            t.xch.notice.withheld = s.xch.notice.withheld + 1 ∧ t.mem = s.mem))

/-- RLE_PULSE, SLIP_PHASE_END and SLIP_OVER (R7, R9): a pulse counts in a slip phase; at the phase's end, the next event by
time (log entry 5), the slip is (N_r − E) × 1000 / E toward zero, kept within ±999, and the alarm is raised exactly when
it exceeds the limit; a pulse at a full counter is the overflow itself (log entry 35), which leaves the slip unknown and
raises the alarm. Either end begins a new gate phase. A raised slip is a SLIP event with its direction and size, and its
notice, which is urgent, is written only when the alarm was clear. -/
def Obligations.SlipPhases : Prop :=
  let raised (s t : State) (selector size : Nat) : Prop :=
    (s.rtk.gate.slipAlarm = true →
      t.tly.counters = (tallyEvent s .slip selector (some size)).tly.counters ∧ t.mem = s.mem ∧
        t.xch.notice = s.xch.notice ∧ t.xch.lastFault = s.xch.lastFault) ∧
    (s.rtk.gate.slipAlarm = false →
      t.xch.lastFault = 6 ∧
      (s.xch.notice.roomFor 1 = true →
        t.tly.counters = (tallyEvent s .slip selector (some size)).tly.counters ∧ t.xch.attn &&& 0x08#8 ≠ 0 ∧
          t.xch.notice.writeCount = s.xch.notice.writeCount + 1) ∧
      (s.xch.notice.roomFor 1 = false →
        t.xch.attn &&& 0x80#8 ≠ 0 ∧ t.xch.notice.withheld = s.xch.notice.withheld + 1))
  (∀ s : State, slipEndDue s = false → slipFull s = false → s.rtk.gate.phase = .slip →
    exec .rlePulse s =
      .next { s with rtk := { s.rtk with gate := { s.rtk.gate with gateCounter := s.rtk.gate.gateCounter + 1 } } }) ∧
    (∀ s : State, s.rtk.gate.phase = .stopped → exec .rlePulse s = .next s) ∧
    (∀ s : State, s.rtk.gate.phase = .gate → gateEndDue s = false → stallDue s = false → exec .rlePulse s = .next s) ∧
    (∀ s : State, slipEndDue s = false → s.rtk.gate.phase = .slip → s.rtk.gate.gateCounter = BitVec.allOnes 24 →
      exec .rlePulse s = exec .slipOver s) ∧
    (∀ (s : State) (l : LineSettings), s.sst.settings = some l → s.rtk.gate.phase = .slip →
      slipWait s.rtk.gate ≤ nextWait s →
      let e : Nat := l.gateLength * l.rleRatio / 1000
      let v : Int := max (-999) (min 999 ((((s.rtk.gate.gateCounter.toNat : Int) - e) * 1000).tdiv e))
      ∃ t, exec .slipPhaseEnd s = .next t ∧
        t.rtk = { s.rtk with
           gate := { s.rtk.gate with phase := .gate, gateCounter := 0 - BitVec.ofNat 24 l.gateLength, timeCounter := 0,
                                     counted := false, slip := some v, slipAlarm := decide (l.slipLimit < v.natAbs) } } ∧
        t.timeBase = s.timeBase + BitVec.ofNat 48 (slipWait s.rtk.gate) ∧ t.laneMask = s.laneMask ∧ t.lanes = s.lanes ∧
        t.fas = s.fas ∧ t.cov = s.cov ∧ t.sst = s.sst ∧ t.cpl = s.cpl ∧ t.out = s.out ∧
        t.tly = { s.tly with counters := t.tly.counters } ∧ MemoryFrame s t ∧
        (v.natAbs ≤ l.slipLimit → t.tly = s.tly ∧ t.mem = s.mem ∧
          t.xch = { s.xch with pollTimer := s.xch.pollTimer - slipWait s.rtk.gate }) ∧
        (l.slipLimit < v.natAbs → raised s t (if 0 < v then 0 else 1) v.natAbs)) ∧
    ∀ (s : State) (l : LineSettings), s.sst.settings = some l → s.rtk.gate.phase = .slip →
      s.rtk.gate.gateCounter = BitVec.allOnes 24 →
      ∃ t, exec .slipOver s = .next t ∧
        t.rtk = { s.rtk with
          gate := { s.rtk.gate with phase := .gate, gateCounter := 0 - BitVec.ofNat 24 l.gateLength, timeCounter := 0,
                                    counted := false, slip := none, slipAlarm := true } } ∧
        t.timeBase = s.timeBase ∧ t.laneMask = s.laneMask ∧ t.lanes = s.lanes ∧ t.fas = s.fas ∧ t.cov = s.cov ∧
        t.sst = s.sst ∧ t.cpl = s.cpl ∧ t.out = s.out ∧ ReportFrame s t ∧ raised s t 0 999

/-- The edge of a side in a line (R12): the first of eight consecutive columns that reach the edge level, from the lowest X
up on the drive side, and the end of the first such eight from the highest X down on the operator side; none without.
The filter (R13): a first edge is taken as it is, a later one moves the filtered edge by floor((16 × e − e_f) / 2^k), and
an absent one clears the found flag alone. The pairing (R14): a side's result for a line forms the observation with the
other side's pending result for it, and every entry for that line or an earlier one leaves both lists; it is discarded
when the other side has passed the line, and joins its list, of 64 at most, otherwise. An entry the other side has passed
leaves. A lane that serves no side searches nothing. -/
def Obligations.EdgesAreFoundAndPaired : Prop :=
  (∀ (level lo : Nat) (values : List Nat) (x : Nat),
    (findEdge .drive level lo (lo + values.length) values = some x ↔
      ∃ n, x = lo + n ∧ EightReach level values n ∧ ∀ m, m < n → ¬ EightReach level values m) ∧
    (findEdge .operator level lo (lo + values.length) values = some x ↔
      ∃ n, x = lo + n + 8 ∧ EightReach level values n ∧ ∀ m, n < m → ¬ EightReach level values m) ∧
    ∀ side, (findEdge side level lo (lo + values.length) values = none ↔ ∀ n, ¬ EightReach level values n)) ∧
  (∀ (e : EdgeSide) (k : Nat),
    e.update k none = { e with found := false } ∧
    ∀ x : Nat,
      (e.found = false → e.update k (some x) = { e with found := true, filtered := 16 * x }) ∧
      (e.found = true → (e.update k (some x)).found = true ∧ (e.update k (some x)).pending = e.pending ∧
        ((e.update k (some x)).filtered : Int) = e.filtered + ((16 * x : Nat) - (e.filtered : Int)) / (2 ^ k : Nat))) ∧
  (∀ (s : State) (h : HeldSet) (k : Nat) (side : Side),
    let own : EdgeResult := { line := k, found := (s.rtk.side side).found, filtered := (s.rtk.side side).filtered }
    let cleared : State := { s with rtk := { s.rtk with
      drive := { s.rtk.drive with pending := s.rtk.drive.pending.filter fun r => decide (k < r.line) }
      operator := { s.rtk.operator with pending := s.rtk.operator.pending.filter fun r => decide (k < r.line) } } }
    let others := (s.rtk.side side.other).pending
    let passed : Prop := ∃ lane y, edgeLane s side.other = some lane ∧ nextLine s lane = some y ∧ linePos s k < y
    (∀ r, (others.find? fun x => decide (x.line = k)) = some r →
      (side = .drive → pairSide s h k side = observe cleared h k own r) ∧
        (side = .operator → pairSide s h k side = observe cleared h k r own)) ∧
    ((∀ r ∈ others, r.line ≠ k) → passed → pairSide s h k side = s) ∧
    ((∀ r ∈ others, r.line ≠ k) → ¬ passed →
      let list := (s.rtk.side side).pending
      let kept := if 64 ≤ list.length then list.drop 1 else list
      (side = .drive → pairSide s h k side =
        { s with rtk := { s.rtk with drive := { s.rtk.drive with pending := kept ++ [own] } } }) ∧
      (side = .operator → pairSide s h k side =
        { s with rtk := { s.rtk with operator := { s.rtk.operator with pending := kept ++ [own] } } }))) ∧
  (∀ s : State, purgeEdges s = { s with rtk := { s.rtk with
      drive := { s.rtk.drive with pending := (purgeEdges s).rtk.drive.pending }
      operator := { s.rtk.operator with pending := (purgeEdges s).rtk.operator.pending } } } ∧
    ∀ side r, r ∈ ((purgeEdges s).rtk.side side).pending ↔
      r ∈ (s.rtk.side side).pending ∧
        ∀ lane y, edgeLane s side.other = some lane → nextLine s lane = some y → y ≤ linePos s r.line) ∧
  ∀ (s : State) (h : HeldSet) (i : LaneId) (k : Nat) (values : List Nat), serves s i .drive = false →
    serves s i .operator = false → searchLine s h i k values = s

/-- An edge observation for a line (R15 to R18). It is present when both sides found an edge at least the minimum width
apart. In ARMED the tracks are checked first, each as not violated when the set in force has changed; then the streak
opens, goes on or closes, and at the arm or absence length the presence changes and the streak closes. Arming empties
the NO_GLASS set and checks no track; disarming gives NO_GLASS every track and leaves no track violated. While no Next is
held, a changed WIDTH set given in a run becomes that of the violated tracks. Nothing but the tracker, the coverage and
what reports touch is changed. -/
def Obligations.ObservationsAreJudged : Prop :=
  ∀ (s : State) (h : HeldSet) (k : Nat) (d o : EdgeResult),
    let t := observe s h k d o
    let present : Prop := d.found = true ∧ o.found = true ∧ d.filtered / 16 + h.set.minWidth ≤ o.filtered / 16
    let position : Pos := (s.rtk.triggerBase.toNat : Int) + k * linePitch s
    let start : Pos := s.rtk.streak.getD position
    let span : Int := position + linePitch s - start
    let checked (v : TrackSet) : Prop := ∀ n : Fin 4,
      let was := s.rtk.observedSet = some h.serial ∧ s.rtk.violated.getLsbD n.val = true
      let m := h.set.widthMargin
      let y := h.set.widthHysteresis
      (h.set.tracks[n.val]? = none → v.getLsbD n.val = false) ∧
        ∀ tr, h.set.tracks[n.val]? = some tr →
          (was → (v.getLsbD n.val = true ↔
            ¬ (d.filtered / 16 + m + y ≤ tr.lo ∧ tr.hi + m + y ≤ o.filtered / 16))) ∧
          (¬ was → (v.getLsbD n.val = true ↔ tr.lo < d.filtered / 16 + m ∨ o.filtered / 16 < tr.hi + m))
    (s.rtk.presence = .disarmed → ¬ present →
      t = { s with rtk := { s.rtk with streak := none, observedSet := some h.serial } }) ∧
    (s.rtk.presence = .disarmed → present → span < h.set.armLength →
      t = { s with rtk := { s.rtk with streak := some start, observedSet := some h.serial } }) ∧
    (s.rtk.presence = .disarmed → present → h.set.armLength ≤ span →
      t.rtk = { s.rtk with presence := .armed, streak := none, observedSet := some h.serial } ∧
        (s.sst.run ≠ .halted → t.cov.noGlass.tracks = 0)) ∧
    (s.rtk.presence = .armed → ∃ v, checked v ∧
      (present → t.rtk = { s.rtk with violated := v, checkedSet := some h.serial, observedSet := some h.serial,
                                      streak := none }) ∧
      (¬ present → span < h.set.absenceLength →
        t.rtk = { s.rtk with violated := v, checkedSet := some h.serial, observedSet := some h.serial,
                             streak := some start }) ∧
      (¬ present → h.set.absenceLength ≤ span →
        t.rtk = { s.rtk with presence := .disarmed, violated := 0, checkedSet := some h.serial,
                             observedSet := some h.serial, streak := none } ∧
          ∀ c, s.sst.run ≠ .halted → s.sst.current = some c → s.sst.next = none →
            t.cov.noGlass.tracks = trackMask c.set.tracks (fun _ => true) ∧ (v ≠ 0 → t.cov.width.tracks = 0)) ∧
      ((present ∨ span < h.set.absenceLength) → v = s.rtk.violated → t.cov = s.cov) ∧
      ∀ c, (present ∨ span < h.set.absenceLength) → v ≠ s.rtk.violated → s.sst.run ≠ .halted → s.sst.current = some c →
        s.sst.next = none → t.cov.width.tracks = v &&& trackMask c.set.tracks (fun _ => true)) ∧
    t.timeBase = s.timeBase ∧ t.laneMask = s.laneMask ∧ t.lanes = s.lanes ∧ t.fas = s.fas ∧ t.cpl = s.cpl ∧
      t.out = s.out ∧ t.sst = s.sst ∧ ReportFrame s t

/-! ## Tallies -/

/-- R160 and R161. A tally event counts in each counter of its kind whose mask and threshold it passes, and in no other:
by 1, or in SUM mode by its magnitude, modulo 2^40. A wrap sets the overflow flag, and raises TALLY_WRAP where the
counter asks for it. A change of configuration, the clear mask and a clear at shift end clear the flag. -/
def Obligations.TallyEventsCount : Prop :=
  ∀ (s : State) (kind : TallyKind) (selector : Nat) (magnitude : Option Nat), kind ≠ .none → kind.isLevel = false →
    let t := tallyEvent s kind selector magnitude
    (∀ n : Fin 16,
      let c := s.tly.counters[n]
      let passes : Prop := c.config.kind = kind ∧ c.config.mask.getLsbD (selector % 16) = true ∧
        ∀ m, magnitude = some m → c.config.threshold = 0 ∨
          (c.config.invert = false ∧ c.config.threshold.toNat ≤ m) ∨
          (c.config.invert = true ∧ m < c.config.threshold.toNat)
      let amount := if c.config.mode = .sum then magnitude.getD 1 else 1
      (s.tly.freeze = true ∨ ¬ passes → t.tly.counters[n] = c) ∧
        (s.tly.freeze = false → passes →
          (t.tly.counters[n].value.toNat = (c.value.toNat + amount) % 2 ^ 40 ∧
            t.tly.counters[n].overflow = (c.overflow || decide (2 ^ 40 ≤ c.value.toNat + amount)) ∧
            t.tly.counters[n].config = c.config ∧ t.tly.counters[n].seen = c.seen) ∧
          (amount < 2 ^ 32 → 2 ^ 40 ≤ c.value.toNat + amount →
            t.tly.counters[n].value.toNat = c.value.toNat + amount - 2 ^ 40) ∧
          (2 ^ 40 ≤ c.value.toNat + amount → c.config.wrapAttention = true → t.xch.attn &&& 0x10#8 ≠ 0)) ∧
        (∀ config now, c.config ≠ config → (c.configure config now).overflow = false) ∧
        (c.clearOverflow true).overflow = false ∧ (c.config.clearAtShiftEnd = true → c.endShift.overflow = false)) ∧
    t = { s with tly := { s.tly with counters := t.tly.counters },
                 xch := { s.xch with attn := t.xch.attn, line := t.xch.line } } ∧
    (t.xch.attn = s.xch.attn ∨ t.xch.attn = s.xch.attn ||| 0x10#8)

/-- REVERSE_STEP (R1) moves nothing: it raises one REVERSE_STEP event, which every counter judges. A counter in LEVEL mode
measures ribbon advance (section 9.4.1): FORWARD_STEP adds 1 for each selected selector whose level is true, judged after
the step's other work, which is the model's order (log entry 11; R162 admits either), and nothing under the freeze; a
reverse step and the passing of time add nothing. A counter in EDGE mode counts the beginnings of a level (R163, R164):
where the levels are noted it adds 1 for each selected selector that is true and was last seen false, unless the freeze
is on, and records what it sees. A taken configuration records the levels of its moment as seen and counts none. -/
def Obligations.LevelsAreCounted : Prop :=
  (∀ s : State, ∃ t, exec .reverseStep s = .next t ∧
    t = { s with tly := { s.tly with counters := t.tly.counters },
                 xch := { s.xch with attn := t.xch.attn, line := t.xch.line } } ∧
    ∀ n : Fin 16, t.tly.counters[n] =
      if s.tly.freeze = false ∧ s.tly.counters[n].config.kind = .reverseStep ∧
          s.tly.counters[n].config.mask.getLsbD 0 = true
      then s.tly.counters[n].add 1 else s.tly.counters[n]) ∧
  ((∀ (s t : State) (n : Fin 16), s.tly.counters[n].config.mode = .level →
    s.tly.counters[n].config.kind.isLevel = true →
    (exec .forwardStep s = .next t →
      t.tly.counters[n] = if s.tly.freeze = true then s.tly.counters[n] else
        s.tly.counters[n].add
          (countBits (levels t s.tly.counters[n].config.kind &&& s.tly.counters[n].config.mask))) ∧
      (exec .reverseStep s = .next t → t.tly.counters[n] = s.tly.counters[n])) ∧
    ∀ (s : State) (k : Nat), (elapse s k).tly = s.tly) ∧
  (∀ (s : State) (n : Fin 16),
    let c := s.tly.counters[n]
    let now := levels s c.config.kind
    (∀ old, c.config.mode = .edge → c.seen = some old →
      (noteLevels s).tly.counters[n] =
        { (if s.tly.freeze = true then c else c.add (countBits (now &&& ~~~old &&& c.config.mask))) with seen := some now }) ∧
      (c.config.mode ≠ .edge ∨ c.seen = none → (noteLevels s).tly.counters[n] = c)) ∧
    (∀ (c : Counter) (config : TallyConfig) (now : BitVec 16), c.config ≠ config →
      (c.configure config now).value = config.preload ∧
        (c.configure config now).seen = if config.mode = .edge then some now else none) ∧
    ∀ (c : Counter) (config : TallyConfig) (now : BitVec 16), c.config = config → c.configure config now = c

/-- After every step each EDGE counter's last seen levels are the levels as they stand (R163), if they were before it: no
command changes a level without the counters noting it, under the freeze as well (R164). -/
def Obligations.EdgeCountersSeeEveryLevel : Prop :=
  Invariant EdgeCountersSee ∧
    ∀ (c : Instr) (s t : State), EdgeCountersSee s → exec c s = .next t → EdgeCountersSee t

/-- Taking a shift (R166) forms the snapshot of this moment, clears the counters that ask for it to their preloads, leaves
the others counting, and begins the next shift here; the snapshot is then offered to the notice journal. SNAPSHOT_WRITE
(R167): with a snapshot pending and room in the notice journal, the SHIFT_REPORT is written, SNAPSHOT is raised, and no
snapshot is pending when no further shift was asked for; a further shift is taken at once, and its snapshot written too
where there is room for it and pending where there is none. Without room or without a snapshot the command finds nothing
due and has no effect (log entry 5). -/
def Obligations.ShiftsAreTaken : Prop :=
  ((∀ s : State, ∃ p : Snapshot,
    takeShift s = { s with tly := { s.tly with counters := (takeShift s).tly.counters, shiftTaken := s.tly.requestedShift,
                                               shiftStart := s.rtk.gantry, shiftStartTime := s.timeBase,
                                               snapshot := some p } } ∧
    p.ended = s.tly.shiftTaken ∧ p.begun = s.tly.requestedShift ∧ p.startPosition = s.tly.shiftStart ∧
    p.startTime = s.tly.shiftStartTime ∧ p.endPosition = s.rtk.gantry ∧ p.endTime = s.timeBase ∧
    ∀ n : Fin 16,
      let c := s.tly.counters[n]
      p.counters[n] = { value := c.value, overflow := c.overflow, kind := c.config.kind } ∧
        (takeShift s).tly.counters[n] =
          if c.config.clearAtShiftEnd = true then { c with value := c.config.preload, overflow := false } else c) ∧
    ∀ s : State, shiftDue s = true → testShift s = offerSnapshot (takeShift s)) ∧
  (∀ s : State, s.tly.snapshot.isSome = true → s.xch.notice.roomFor 1 = true →
    ∃ t, exec .snapshotWrite s = .next t ∧ t.xch.flaw = s.xch.flaw ∧ t.xch.plate = s.xch.plate ∧
      t.xch.attn &&& 0x20#8 ≠ 0 ∧ t.timeBase = s.timeBase ∧ t.rtk = s.rtk ∧ t.laneMask = s.laneMask ∧
      t.lanes = s.lanes ∧ t.fas = s.fas ∧ t.cov = s.cov ∧ t.cpl = s.cpl ∧ t.out = s.out ∧ t.sst = s.sst ∧
      ExchangeFrame s t ∧ MemoryFrame s t ∧
      (s.tly.requestedShift = s.tly.shiftTaken →
        t.tly = { s.tly with snapshot := none } ∧
          t.xch.notice = { s.xch.notice with writeCount := s.xch.notice.writeCount + 1 }) ∧
      (s.tly.requestedShift ≠ s.tly.shiftTaken → s.xch.notice.bounded →
        t.tly = { s.tly with
          counters := (takeShift s).tly.counters, shiftTaken := s.tly.requestedShift, shiftStart := s.rtk.gantry,
          shiftStartTime := s.timeBase
          snapshot := if s.xch.notice.roomFor 2 = true then none else (takeShift s).tly.snapshot } ∧
        t.xch.notice = { s.xch.notice with
          writeCount := s.xch.notice.writeCount + (if s.xch.notice.roomFor 2 = true then 2 else 1) })) ∧
    ∀ s : State, snapshotDue s = false → exec .snapshotWrite s = .next s

/-! ## The camera lanes -/

/-- LINE_PACKET where the packet enters no new line (R20, R22, R24, R25): a lane that is OFF drops it; a header error is
counted, and spoils the line in assembly of a lane that follows the numbering; a payload error is counted; a packet
behind the expected line, or of a view already seen, is stale; one ahead of the triggers issued counts as a header error
alone, whatever its payload (log entry 16); and a packet of the expected line whose view is new enters its view. The rest
of the part is left as it is. A valid packet at a lane in WAIT_SIGNAL or LOST acquires the numbering (R23): the lane enters
SETTLING expecting the latest line issued with the packet's number, with the packet's view entered, or, when that line
lies before trigger 0, the packet is stale. Then only the lane, its notice, the pending edges and the closed position's
boundary follow it. -/
def Obligations.PacketsAtALane : Prop :=
  (∀ (s : State) (i : LaneId) (bytes : List Byte),
    let l := s.lane i
    let check := checkPacket i (geometry s i).pixels bytes
    (l.state = .off → exec (.linePacket i bytes) s = .next s) ∧
      (l.state ≠ .off → l.state.follows = false → check = .headerError →
        exec (.linePacket i bytes) s = .next (s.setLane i { l with headerErrors := l.headerErrors + 1 })) ∧
      (l.state.follows = true → check = .headerError →
        exec (.linePacket i bytes) s =
          .next (s.setLane i
            { l with headerErrors := l.headerErrors + 1, assembly := { l.assembly with spoilt := true } })) ∧
      (∀ n v, l.state ≠ .off → l.state.follows = false → check = .trusted n v none →
        exec (.linePacket i bytes) s = .next (s.setLane i { l with payloadErrors := l.payloadErrors + 1 })) ∧
      ∀ (n e : Nat) (v : View) (pixels : Option (List Nat)), l.state.follows = true → l.expected = some e →
        check = .trusted n v pixels →
        let counted : BitVec 32 := l.payloadErrors + if pixels.isNone = true then 1 else 0
        let ahead : Prop := (s.rtk.triggerCount.toNat : Int) < e + lineDifference n e
        (lineDifference n e < 0 →
          exec (.linePacket i bytes) s =
            .next (s.setLane i { l with payloadErrors := counted, stalePackets := l.stalePackets + 1 })) ∧
          (0 ≤ lineDifference n e → ahead →
            exec (.linePacket i bytes) s =
              .next (s.setLane i
                { l with headerErrors := l.headerErrors + 1, assembly := { l.assembly with spoilt := true } })) ∧
          (lineDifference n e = 0 → ¬ ahead → l.assembly.views.get v ≠ .notSeen →
            exec (.linePacket i bytes) s =
              .next (s.setLane i { l with payloadErrors := counted, stalePackets := l.stalePackets + 1 })) ∧
          (lineDifference n e = 0 → ¬ ahead → l.assembly.views.get v = .notSeen →
            (l.assembly.enter v pixels).allSeen = false →
            exec (.linePacket i bytes) s =
              .next (s.setLane i { l with payloadErrors := counted, assembly := l.assembly.enter v pixels }))) ∧
  ∀ (s : State) (i : LaneId) (bytes : List Byte) (n : Nat) (v : View) (pixels : List Nat),
    ((s.lane i).state = .waitSignal ∨ (s.lane i).state = .lost) → s.sst.settings.isSome = true →
    checkPacket i (geometry s i).pixels bytes = .trusted n v (some pixels) →
    let last := s.rtk.triggerCount.toNat
    let back := (last + 2 ^ 32 - n % 2 ^ 32) % 2 ^ 32
    (back ≤ last →
      ∃ t k, exec (.linePacket i bytes) s = .next t ∧
        t.lane i = { s.lane i with
          state := .settling, expected := some k, assembly := LineInAssembly.empty.enter v (some pixels),
          lastAcceptance := some s.rtk.gantry.toNat, settleStart := some s.rtk.gantry.toNat } ∧
        k ≤ last ∧ k % 2 ^ 32 = n % 2 ^ 32 ∧ (∀ k', k' ≤ last → k' % 2 ^ 32 = n % 2 ^ 32 → k' ≤ k) ∧
        (∀ j, j ≠ i → t.lane j = s.lane j) ∧ t.fas = s.fas ∧ t.out = s.out ∧ InspectionFrame s t ∧
        t.rtk.presence = s.rtk.presence ∧ t.rtk.streak = s.rtk.streak ∧ t.rtk.violated = s.rtk.violated ∧
        (boundaryAhead s = none → t.cov = s.cov)) ∧
      (last < back →
        exec (.linePacket i bytes) s =
          .next (s.setLane i { s.lane i with stalePackets := (s.lane i).stalePackets + 1 }))

/-- Lines pass a lane in increasing number (R24, R26): LINE_PACKET at a lane that follows the numbering never moves its
expected line back, a packet that closes the expected line moves it on, and no other lane is touched. The difference of
a 32-bit line number from the expected line is the one number in (−2^31, 2^31] that leads to a line with that number. -/
def Obligations.LinesPassInOrder : Prop :=
  (∀ (s t : State) (i : LaneId) (bytes : List Byte) (e : Nat), (s.lane i).state.follows = true →
    (s.lane i).expected = some e → exec (.linePacket i bytes) s = .next t →
    (∃ e', (t.lane i).expected = some e' ∧ e ≤ e' ∧
      ∀ (n : Nat) (v : View) (pixels : Option (List Nat)),
        checkPacket i (geometry s i).pixels bytes = .trusted n v pixels →
        e + lineDifference n e ≤ s.rtk.triggerCount.toNat →
        (0 < lineDifference n e → e + lineDifference n e ≤ e') ∧
        (lineDifference n e = 0 → (s.lane i).assembly.views.get v = .notSeen →
          ((s.lane i).assembly.enter v pixels).allSeen = true → e < e')) ∧
      ∀ j, j ≠ i → t.lane j = s.lane j) ∧
    ∀ n e : Nat, n < 2 ^ 32 →
      -(2 ^ 31 : Int) < lineDifference n e ∧ lineDifference n e ≤ 2 ^ 31 ∧
        ((e : Int) + lineDifference n e) % 2 ^ 32 = n ∧
        ∀ d : Int, -(2 ^ 31 : Int) < d → d ≤ 2 ^ 31 → ((e : Int) + d) % 2 ^ 32 = n → d = lineDifference n e

/-- The frame of LINE_PACKET: the time base, the gantry position, the triggers, the speed gate, the lane mask, the Set
Store, the planner, the Cut List, the strobe, the nozzles and the marker hold stay as they were, and so do the counters'
shifts, the edit numbers, the poll timer and every byte of memory outside the Mark Block and the journals' slots. -/
def Obligations.PacketFrame : Prop :=
  ∀ (s : State) (i : LaneId) (bytes : List Byte), ∃ t, exec (.linePacket i bytes) s = .next t ∧
    t.timeBase = s.timeBase ∧ t.rtk.gantry = s.rtk.gantry ∧ t.rtk.triggerBase = s.rtk.triggerBase ∧
    t.rtk.triggerCount = s.rtk.triggerCount ∧ t.rtk.gate = s.rtk.gate ∧ t.laneMask = s.laneMask ∧ t.sst = s.sst ∧
    t.cpl = s.cpl ∧ t.out = { s.out with marks := t.out.marks } ∧ ReportFrame s t

/-- Decode and encode agree (R22): the packet a camera builds is read back as its line number, its view and its pixels;
a pixel with any of its six upper bits set makes it a payload error, its header still trusted; and at a lane of another
number or another pixel count it is a header error. -/
def Obligations.PacketRoundTrip : Prop :=
  ∀ (lane : LaneId) (n : Nat) (view : View) (pixels : List Nat), n < 2 ^ 32 → pixels.length < 2 ^ 16 →
    (∀ p ∈ pixels, p < 2 ^ 16) →
    checkPacket lane pixels.length (packetOf lane n view pixels) =
        .trusted n view (if ∀ p ∈ pixels, p < 1024 then some pixels else none) ∧
      (∀ other : LaneId, other ≠ lane → checkPacket other pixels.length (packetOf lane n view pixels) = .headerError) ∧
      ∀ count, count ≠ pixels.length → checkPacket lane count (packetOf lane n view pixels) = .headerError

/-- What a closed line leads to at its lane (R26, R32, R39, R40, R41). A dropped or missing line of an inspecting lane
counts in the error window and opens or lengthens the bad run; elsewhere it leads to nothing. A complete line moves the
last acceptance to the gantry position. In an inspecting lane it ends the bad run, after a GAP over the run's lines when
the run exceeds the tolerance, and its background becomes that of the line; in LIVE, DEGRADED and FAULT it brings the set
in force there, and that set's gain code unless the set retunes. The expected line then moves past it, and a window whose
last line it has moved past is judged (in the order of log entry 41) and the next begins. The next-line position is the
least of the expected line, the bad run's first line and the gantry. -/
def Obligations.LinesLeadToTheirWork : Prop :=
  (∀ (s : State) (i : LaneId) (k : Nat) (fate : LineFate), fate = .dropped ∨ fate = .missing →
    let l := s.lane i
    (l.state.inspecting = false → workLine s i k fate = s) ∧
    (l.state.inspecting = true →
      let t := workLine s i k fate
      t.lane i = { l with
        window := l.window.map fun w => { w with count := w.count + 1 }
        badRun := some (match l.badRun with
          | none => { first := k, length := 1 }
          | some r => { r with length := r.length + 1 }) } ∧
      (∀ j, j ≠ i → t.lane j = s.lane j) ∧ InspectionFrame s t)) ∧
  (∀ (s : State) (i : LaneId) (k : Nat),
    let l := s.lane i
    let t := workLine s i k .complete
    let set := setAt s (linePos s k)
    let brought (h : HeldSet) (l : Lane) : Lane :=
      if l.setSeen = some h.serial then l
      else { l with setSeen := some h.serial, gain := if h.set.retune = true then l.gain else h.set.lanes[i].gain }
    (∀ j, j ≠ i → t.lane j = s.lane j) ∧ InspectionFrame s t ∧
    (l.state.inspecting = true →
      (set = none → t.lane i = { l with badRun := none, lastAcceptance := some (gantryPos s) }) ∧
      ∀ h, set = some h → t.lane i = brought h
        { l with badRun := none, background := some (nextBackground h l.background (correctedLine s h i)),
                 lastAcceptance := some (gantryPos s) }) ∧
    (l.state = .settling → t = s.setLane i { l with lastAcceptance := some (gantryPos s) }) ∧
    (l.state = .fault →
      (set = none → t = s.setLane i { l with lastAcceptance := some (gantryPos s) }) ∧
      ∀ h, set = some h → t = s.setLane i (brought h { l with lastAcceptance := some (gantryPos s) })) ∧
    ∀ r ls, l.badRun = some r → s.sst.settings = some ls →
      (r.length ≤ ls.gapTolerance → endBadRun s i k = s.setLane i { l with badRun := none }) ∧
      (ls.gapTolerance < r.length →
        let a := linePos s r.first
        let b := linePos s k
        endBadRun s i k = (giveGap s i a b).setLane i { l with badRun := none } ∧
        (s.sst.run = .halted → giveGap s i a b = s) ∧
        ∀ c, s.sst.run ≠ .halted → s.sst.current = some c → s.sst.next = none →
          let mask := trackMask c.set.tracks fun tr =>
            decide (tr.lo < (geometry s i).origin + (geometry s i).pixels ∧ (geometry s i).origin < tr.hi) &&
              !coveredBy s ((inspectingLanes s).filter fun j => decide (j ≠ i)) tr
          (mask = 0 → giveGap s i a b = s) ∧
          (mask ≠ 0 → giveGap s i a b =
            enterStretch s { cause := .gap, tracks := mask, yStart := a, yEnd := some b, lane := some i }))) ∧
  (∀ (s : State) (i : LaneId) (k : Nat),
    (passLine s i k).lane i = { s.lane i with expected := some (k + 1), assembly := LineInAssembly.empty } ∧
      InspectionFrame s (passLine s i k)) ∧
  (∀ (s : State) (i : LaneId) (ls : LineSettings) (w : ErrorWindow) (e : Nat), s.sst.settings = some ls →
    (s.lane i).window = some w → (s.lane i).expected = some e →
    let l := s.lane i
    let t := judgeWindow s i
    (e < w.start + ls.errorWindow → t = s) ∧
    (w.start + ls.errorWindow ≤ e →
      t.lane i = { l with
        state := if l.state = .live ∧ ls.errorThreshold < w.count then .degraded
          else if l.state = .degraded ∧ w.count ≤ ls.recoverThreshold then .live else l.state
        window := some { start := w.start + ls.errorWindow, count := 0 } } ∧
      (∀ j, j ≠ i → t.lane j = s.lane j) ∧ InspectionFrame s t)) ∧
  ∀ (s : State) (i : LaneId),
    nextLine s i = (s.lane i).expected.map fun e =>
      min (match (s.lane i).badRun with
        | some r => min (linePos s e) (linePos s r.first)
        | none => linePos s e) (gantryPos s)

/-- A lane at an advance of the gantry position (R35, R36). In SETTLING, TUNING, LIVE and DEGRADED it is stale, and goes to
LOST, once the gantry stands the stale distance beyond its last acceptance: its line numbering, its bad run, its window
and its tune go, and, if it was inspecting, its open blobs are closed. A lane in SETTLING that is not stale ends it when
the settle length has passed and a set is in force at its next-line position: in TUNING where the settings, a pending
request or the set ask for it, else in LIVE with the set's gain code, and the set is seen. Any other lane is left as it
is. FORWARD_STEP makes both tests of every lane. -/
def Obligations.SettlingAndStaleness : Prop :=
  (∀ (s : State) (i : LaneId) (ls : LineSettings), s.sst.settings = some ls →
    let l := s.lane i
    let t := advanceLane s i
    let stale : Prop := (l.state = .settling ∨ l.state = .tuning ∨ l.state = .live ∨ l.state = .degraded) ∧
      ∃ y, l.lastAcceptance = some y ∧ (ls.staleDistance : Int) ≤ s.rtk.gantry.toNat - y
    let settled : Prop := l.state = .settling ∧ ∃ y, l.settleStart = some y ∧ (ls.settleLength : Int) ≤ s.rtk.gantry.toNat - y
    (∀ j, j ≠ i → t.lane j = s.lane j) ∧ InspectionFrame s t ∧
    (stale →
      t.lane i = { l with state := .lost, expected := none, assembly := LineInAssembly.empty, badRun := none,
                          window := none, background := none, tune := none } ∧
      (l.state.inspecting = true → openBlobs t i = [])) ∧
    (¬ stale → ¬ settled → t = s) ∧
    (¬ stale → settled → (nextLine s i).bind (setAt s) = none → t = s) ∧
    ∀ h e, ¬ stale → settled → (nextLine s i).bind (setAt s) = some h → l.expected = some e →
      (ls.tuneOnSettle = true ∨ l.tunePending = true ∨ h.set.retune = true →
        t.lane i = { l with state := .tuning, tune := some (Tune.fresh ls e), tunePending := false,
                            setSeen := some h.serial }) ∧
      (ls.tuneOnSettle = false → l.tunePending = false → h.set.retune = false →
        (t.lane i).state = .live ∧ (t.lane i).gain = h.set.lanes[i].gain ∧ (t.lane i).setSeen = some h.serial ∧
          (t.lane i).tune = none ∧ ∃ e', (t.lane i).expected = some e' ∧ e ≤ e')) ∧
  ∀ (s t : State) (i : LaneId) (ls : LineSettings) (y : Pos), s.sst.settings = some ls → exec .forwardStep s = .next t →
    (s.lane i).lastAcceptance = some y →
    (((s.lane i).state = .tuning ∨ (s.lane i).state = .live ∨ (s.lane i).state = .degraded ∨ (s.lane i).state = .settling) →
      (ls.staleDistance : Int) ≤ (s.rtk.gantry + 1).toNat - y → (t.lane i).state = .lost) ∧
    (∀ h z, (s.lane i).state = .settling → ((s.rtk.gantry + 1).toNat : Int) - y < ls.staleDistance →
      (s.lane i).settleStart = some z → (ls.settleLength : Int) ≤ (s.rtk.gantry + 1).toNat - z →
      (s.lane i).expected.isSome = true → s.sst.current = some h → s.sst.next = none →
      (t.lane i).state = .tuning ∨ (t.lane i).state = .live)

/-- Entry to LIVE (R37): the expected line moves forward to the first line at or after the closed position, a line in
assembly for an earlier line is discarded, the bad run is none, the window starts afresh there, the background is void,
and the lane is given to the Coverage Unit among the inspecting lanes. A departure (R38): the lane's open blobs are
closed and no other lane's, the lane is given as one that no longer inspects, and an edge lane empties both pending lists
and closes any streak. While no Next set is held, the LANE set of a run is then the tracks of the Current set that the
lanes given do not cover (R70); in HALTED coverage is left alone (R80). A lane that is not inspecting departs from
nothing. -/
def Obligations.LiveIsEnteredAndLeft : Prop :=
  (∀ (s : State) (i : LaneId) (e : Nat), (s.lane i).expected = some e → 1 ≤ linePitch s →
    let l := s.lane i
    let t := enterLive s i
    (∃ e', e ≤ e' ∧ closedPosition s ≤ linePos s e' ∧ (∀ k, e ≤ k → closedPosition s ≤ linePos s k → e' ≤ k) ∧
      t.lane i = { l with
        state := .live, expected := some e', assembly := if e' = e then l.assembly else LineInAssembly.empty
        badRun := none, window := some { start := e', count := 0 }, background := none, tune := none }) ∧
    (∀ j, j ≠ i → t.lane j = s.lane j) ∧ t.fas = s.fas ∧ t.out = s.out ∧ InspectionFrame s t ∧
    (s.sst.run = .halted → t.cov = s.cov) ∧
    ∀ c, s.sst.run ≠ .halted → s.sst.current = some c → s.sst.next = none →
      t.cov.lane.tracks = trackMask c.set.tracks fun tr => !coveredBy s (i :: inspectingLanes s) tr) ∧
  (∀ (s : State) (i : LaneId),
    let t := leaveInspecting s i
    let edge : Prop := edgeLane s .drive = some i ∨ edgeLane s .operator = some i
    ((s.lane i).state.inspecting = false → t = s) ∧
    ((s.lane i).state.inspecting = true →
      t.lanes = s.lanes ∧ openBlobs t i = [] ∧ (∀ j, j ≠ i → openBlobs t j = openBlobs s j) ∧ InspectionFrame s t ∧
      (¬ edge → t.rtk = s.rtk) ∧
      (edge → t.rtk = { s.rtk with drive := { s.rtk.drive with pending := [] },
                                   operator := { s.rtk.operator with pending := [] }, streak := none }) ∧
      (s.sst.run = .halted → openBlobs s i = [] → t.cov = s.cov) ∧
      ∀ c, s.sst.run ≠ .halted → s.sst.current = some c → s.sst.next = none →
        t.cov.lane.tracks = trackMask c.set.tracks fun tr =>
          !coveredBy s ((inspectingLanes s).filter fun j => decide (j ≠ i)) tr)) ∧
  ∀ (s : State) (lanes : List LaneId) (tr : Track), tr.lo < tr.hi →
    (coveredBy s lanes tr = true ↔
      ∀ x, tr.lo ≤ x → x < tr.hi →
        ∃ i ∈ lanes, (geometry s i).origin ≤ x ∧ x < (geometry s i).origin + (geometry s i).pixels)

/-- The level search (R43, R44; R42's requests are those of the lane section). A complete line of a TUNING lane where a set
is in force is judged in the evaluation half of its dwell by the floor of the mean of its corrected TRN view under the
trial code: one outside the band adds 1 to the outside count. When the expected line has passed the dwell, its code is
accepted if few enough lines lay outside and one was judged: the gain becomes the code, TUNE_DONE is written and the lane
enters LIVE. Otherwise the next code, the floor again for another pass, or, after three passes, FAULT with the urgent
TUNE_FAILED; the gain is kept. -/
def Obligations.LevelSearch : Prop :=
  (∀ (s : State) (i : LaneId) (k : Nat) (h : HeldSet) (ls : LineSettings) (u : Tune), s.sst.settings = some ls →
    (s.lane i).state = .tuning → (s.lane i).tune = some u → setAt s (linePos s k) = some h →
    let l := s.lane i
    let values := corrected s i h.set.lanes[i].offsets.transmitted u.trial l.assembly.views.transmitted
    let mean := values.sum / values.length
    let half : Prop := u.dwellStart + ls.dwell / 2 ≤ k ∧ k < u.dwellStart + ls.dwell
    ∃ u', workLine s i k .complete = s.setLane i
        { l with tune := some u', lastAcceptance := some (gantryPos s), setSeen := some h.serial
                 gain := if l.setSeen = some h.serial ∨ h.set.retune = true then l.gain else h.set.lanes[i].gain } ∧
      (¬ half → u' = u) ∧
      (half → ls.bandLow ≤ mean → mean ≤ ls.bandHigh → u' = { u with judged := true }) ∧
      (half → mean < ls.bandLow ∨ ls.bandHigh < mean → u' = { u with judged := true, outside := u.outside + 1 })) ∧
  ∀ (s : State) (i : LaneId) (ls : LineSettings) (u : Tune) (e : Nat), s.sst.settings = some ls →
    (s.lane i).state = .tuning → (s.lane i).tune = some u → (s.lane i).expected = some e →
    let l := s.lane i
    let t := judgeDwell s i
    let good : Prop := u.outside ≤ ls.dwellTolerance ∧ u.judged = true
    let next : Tune := { u with trial := u.trial + ls.gainStep, outside := 0, judged := false,
                                dwellStart := u.dwellStart + ls.dwell }
    (e < u.dwellStart + ls.dwell → t = s) ∧
    (u.dwellStart + ls.dwell ≤ e →
      (good → (t.lane i).state = .live ∧ (t.lane i).gain = u.trial ∧ (t.lane i).tune = none ∧
        (t.lane i).background = none ∧ (∀ j, j ≠ i → t.lane j = s.lane j) ∧ InspectionFrame s t) ∧
      (¬ good → u.trial + ls.gainStep ≤ ls.gainCeiling → t = s.setLane i { l with tune := some next }) ∧
      (¬ good → ls.gainCeiling < u.trial + ls.gainStep → u.passes + 1 < 3 →
        t = s.setLane i { l with tune := some { next with trial := ls.gainFloor, passes := u.passes + 1 } }) ∧
      (¬ good → ls.gainCeiling < u.trial + ls.gainStep → 3 ≤ u.passes + 1 →
        t.lane i = { l with state := .fault, tune := none } ∧ t.xch.lastFault = 3 ∧
          (∀ j, j ≠ i → t.lane j = s.lane j) ∧ t.fas = s.fas ∧ InspectionFrame s t))

/-! ## Pixels, runs and flaws -/

/-- R29, with the correction and the background it reads (section 2.4). A pixel is marked dark when its deviation is at
most minus its view's dark threshold, bright when it is at least the bright threshold, never both, with the deviation's
absolute value as magnitude; the first line after entry to LIVE marks nothing, and every later one is judged against the
background as it stood before the line. A marked pixel keeps its background. -/
def Obligations.PixelsAreMarked : Prop :=
  (∀ (t : Thresholds) (c b : Nat), 1 ≤ t.dark → 1 ≤ t.bright →
    let d : Int := (c : Int) - (b / 64 : Nat)
    (d ≤ -(t.dark : Int) → markPixel t c b = .dark d.natAbs) ∧
      ((t.bright : Int) ≤ d → markPixel t c b = .bright d.natAbs) ∧
      (-(t.dark : Int) < d → d < t.bright → markPixel t c b = .plain) ∧
      ¬ (d ≤ -(t.dark : Int) ∧ (t.bright : Int) ≤ d) ∧
      ∀ shift, (markPixel t c b ≠ .plain → updateBackground t shift c b = b) ∧
        (markPixel t c b = .plain → c ≤ 1023 → b ≤ 65472 →
          (updateBackground t shift c b : Int) = b + ((64 * c : Nat) - (b : Int)) / (2 ^ shift : Nat) ∧
            updateBackground t shift c b ≤ 65472)) ∧
    (∀ (offset : Int) (gain v : Nat), correctPixel offset gain v ≤ 1023 ∧
      (0 ≤ ((v : Int) - offset) * (256 + gain : Nat) / 256 → ((v : Int) - offset) * (256 + gain : Nat) / 256 ≤ 1023 →
        (correctPixel offset gain v : Int) = ((v : Int) - offset) * (256 + gain : Nat) / 256)) ∧
    ∀ (h : HeldSet) (origin : Nat) (line : PerView (List Nat)) (v : View),
      lineRuns h origin none line v = [] ∧
        ∀ b, lineRuns h origin (some b) line v =
          (formRuns v origin none (List.zipWith (markPixel (h.set.thresholds.get v)) (line.get v) (b.get v))).filter
            fun r => decide (h.set.minRun ≤ r.count)

/-- Runs are maximal and disjoint, and cover every marked pixel (R30); line marks hold every run and stand further apart
than the join gap (R47). R31: a view keeps at most 32 runs, the first 31 as formed, and the 32nd extended over every later
one; one RUN_OVERFLOW event is raised for each view that overflows. -/
def Obligations.RunLimit : Prop :=
  ((∀ runs : List Run, runs.length ≤ 32 → limitRuns runs = runs) ∧
    (∀ runs : List Run, 32 < runs.length → (∀ r ∈ runs, r.xStart < r.xEnd) →
      runs.Pairwise (fun a b => a.xEnd ≤ b.xStart) →
      (limitRuns runs).length = 32 ∧ (limitRuns runs).take 31 = runs.take 31 ∧
        ∃ (first last merged : Run), runs[31]? = some first ∧ runs.getLast? = some last ∧
          (limitRuns runs)[31]? = some merged ∧ merged.view = first.view ∧ merged.xStart = first.xStart ∧
          merged.xEnd = last.xEnd ∧ merged.polarities = 0b11#2 ∧
          (∀ r ∈ runs.drop 31, r.peak ≤ merged.peak) ∧ (∃ r ∈ runs.drop 31, r.peak = merged.peak) ∧
          merged.count = ((runs.drop 31).map Run.count).sum) ∧
    ∀ (s : State) (i : LaneId) (views : List (List Run)),
      overflowEvents s i views =
        (fun t => tallyEvent t .runOverflow i.val none)^[views.countP fun r => decide (32 < r.length)] s) ∧
  (∀ (view : View) (x : Nat) (pixels : List PixelMark),
    let runs := formRuns view x none pixels
    (∀ r ∈ runs, r.view = view ∧ x ≤ r.xStart ∧ r.xStart < r.xEnd ∧ r.xEnd ≤ x + pixels.length ∧
      r.count = r.xEnd - r.xStart ∧
      ∀ k, r.xStart ≤ k → k < r.xEnd → ∃ m, pixels[k - x]? = some m ∧ m.polarity = r.polarities ∧ m.magnitude ≤ r.peak) ∧
      runs.Pairwise (fun a b => a.xEnd < b.xStart ∨ (a.xEnd = b.xStart ∧ a.polarities ≠ b.polarities)) ∧
      ∀ k m, pixels[k]? = some m → m.polarity ≠ 0 → ∃ r ∈ runs, r.xStart ≤ x + k ∧ x + k < r.xEnd) ∧
    ∀ (gap : Nat) (runs : List Run), (∀ r ∈ runs, r.xStart < r.xEnd) →
      (lineMarks gap runs).Pairwise (fun a b => a.xEnd + gap < b.xStart) ∧
        (∀ r ∈ runs, ∃ m ∈ lineMarks gap runs, m.xStart ≤ r.xStart ∧ r.xEnd ≤ m.xEnd ∧ r.peak ≤ m.peak) ∧
        ((lineMarks gap runs).map LineMark.count).sum = (runs.map Run.count).sum ∧
        (lineMarks gap runs = [] ↔ runs = [])

/-- Classification (R59): the first rule of the set that matches gives the class, 0 when none does; a rule matches on its
views, sizes, aspect, peak and polarity, and one whose size minimum exceeds its maximum matches nothing. -/
def Obligations.FirstRuleClassifies : Prop :=
  (∀ (r : ClassRule) (f : Flaw), r.admits f = true ↔
    (∀ n, r.required.getLsbD n = true → f.views.getLsbD n = true) ∧
      (∀ n, r.forbidden.getLsbD n = true → f.views.getLsbD n = false) ∧
      r.sizeMin ≤ f.size ∧ f.size ≤ r.sizeMax ∧ r.aspectMin ≤ f.aspect ∧ r.peakMin ≤ f.peak ∧
      (r.polarity = .any ∨ (r.polarity = .dark ∧ f.polarities.getLsbD 0 = true) ∨
        (r.polarity = .bright ∧ f.polarities.getLsbD 1 = true))) ∧
    (∀ (before after : List ClassRule) (r : ClassRule) (f : Flaw), (∀ x ∈ before, x.admits f = false) →
      r.admits f = true → classify (before ++ r :: after) f = r.flawClass) ∧
    (∀ (rules : List ClassRule) (f : Flaw), (∀ x ∈ rules, x.admits f = false) → classify rules f = 0) ∧
    ∀ (r : ClassRule) (f : Flaw), r.sizeMax < r.sizeMin → r.admits f = false

/-- R56. A closing blob whose centre lies outside its lane's owned range is discarded: no flaw number, no record, no map
entry, no offer, no journal record, and one SEAM_DUPLICATE event with its marked pixel count saturated. Split, it still
opens its continuation, without a continued-from. Inside the range it is an ordinary flaw with a number. Where two lanes
that follow one another in X both inspect, their owned ranges meet at the middle of their overlap, so each X of the overlap
is owned by exactly one of them; a lane owns its field up to its end where its neighbour does not inspect (R55). -/
def Obligations.SeamDuplicates : Prop :=
  (∀ (s : State) (i : LaneId) (b : Blob) (x : Nat × Nat) (split truncated : Bool), b.extent = some x →
    let inside : Prop := (ownedRange s i).1 ≤ (x.1 + x.2) / 2 ∧ (x.1 + x.2) / 2 < (ownedRange s i).2
    let r := settleBlob s i b split truncated
    (¬ inside →
      r = (tallyEvent s .seamDuplicate i.val (some (min b.count 65535)), none) ∧ r.1.fas = s.fas ∧ r.1.out = s.out ∧
        r.1.mem = s.mem ∧ r.1.cov = s.cov ∧ (∀ id, r.1.xch.journal id = s.xch.journal id) ∧
        ∀ k, ∃ b' ∈ openBlobs (splitBlob k i s b) i, b'.continuedFrom = none ∧ b'.yStart = linePos s (k + 1) ∧
          b'.lastLine = k ∧ b'.extent = none ∧ b'.recentStart = b.recentStart ∧ b'.recentEnd = b.recentEnd) ∧
      (inside → r.2 = some s.fas.serial ∧ r.1.fas.serial = nextSerial s.fas.serial)) ∧
  ∀ (s : State) (l : LineSettings) (i j : LaneId) (before after : List LaneId), s.sst.settings = some l →
    fittedInX l = before ++ i :: j :: after →
    let f := (geometry s i).field
    let g := (geometry s j).field
    (((s.lane i).state.inspecting = true → (s.lane j).state.inspecting = true →
      (ownedRange s i).2 = (max f.1 g.1 + min f.2 g.2) / 2 ∧ (ownedRange s j).1 = (ownedRange s i).2 ∧
        ∀ x, (x < (ownedRange s i).2 ∧ ¬ (ownedRange s j).1 ≤ x) ∨ (¬ x < (ownedRange s i).2 ∧ (ownedRange s j).1 ≤ x)) ∧
      ((s.lane j).state.inspecting = false → (ownedRange s i).2 = f.2) ∧
      ((s.lane i).state.inspecting = false → (ownedRange s j).1 = g.1)) ∧
      (before = [] → (ownedRange s i).1 = f.1) ∧ (after = [] → (ownedRange s j).2 = g.2)

/-- A close that gives a flaw (R57, R58, R60, R61, R65, R67): the flaw takes the serial, which is never 0 afterwards; it
joins the map when its Y end lies ahead of the cutter and the map has room, else the map is as it was; its record is
written when the flaw journal has room and withheld otherwise; and the blob leaves its lane. -/
def Obligations.BlobCloses : Prop :=
  ∀ (s : State) (i : LaneId) (b : Blob) (x : Nat × Nat) (truncated : Bool), b.extent = some x →
    (ownedRange s i).1 ≤ (x.1 + x.2) / 2 → (x.1 + x.2) / 2 < (ownedRange s i).2 →
    let t := closeBlob s i b truncated
    let yEnd : Pos := linePos s b.lastLine + linePitch s
    t.fas.serial = nextSerial s.fas.serial ∧ t.fas.serial ≠ 0 ∧ (∀ o ∈ openBlobs t i, o.order ≠ b.order) ∧
      (∀ o ∈ openBlobs s i, o.order ≠ b.order → o ∈ openBlobs t i) ∧
      (passedCutter s yEnd = false → s.fas.map.length < 2048 →
        t.fas.map.length = s.fas.map.length + 1 ∧ s.fas.map.Sublist t.fas.map ∧
        ∃ e ∈ t.fas.map, e.flaw.number = s.fas.serial ∧ e.flaw.lane = i ∧ e.flaw.yStart = b.yStart ∧
          e.flaw.yEnd = yEnd ∧ e.flaw.xMin = x.1 ∧ e.flaw.xEnd = x.2 ∧ e.flaw.views = b.views ∧
          e.flaw.polarities = b.polarities ∧ e.flaw.peak = b.peak ∧ e.flaw.area = min b.count 65535 ∧
          e.flaw.size = min (max (yEnd - b.yStart).toNat (x.2 - x.1)) 65535 ∧ e.flaw.split = false ∧
          e.flaw.truncated = truncated ∧ e.flaw.spilled = false ∧ e.flaw.continuedFrom = b.continuedFrom ∧
          e.withheld = !s.xch.flaw.roomFor 1) ∧
      (passedCutter s yEnd = true ∨ 2048 ≤ s.fas.map.length → t.fas.map = s.fas.map) ∧
      (s.xch.flaw.roomFor 1 = true → t.xch.flaw = { s.xch.flaw with writeCount := s.xch.flaw.writeCount + 1 }) ∧
      (s.xch.flaw.roomFor 1 = false → t.xch.flaw = { s.xch.flaw with withheld := s.xch.flaw.withheld + 1 })

/-! ## Coverage -/

/-- Folding (R72, R73): with 32 entries held, a stretch that is not behind the cutter is folded into the last entry of
the list and takes no number. The folded entry covers both: it meets every extent that either met, holds the tracks,
the causes and the open causes of both, and is open when either is. -/
def Obligations.FoldCoversBoth : Prop :=
  (∀ (e : Stretch) (inc : Incoming),
    (e.fold inc).yStart = min e.yStart inc.yStart ∧
      ((e.fold inc).yEnd = none ↔ e.yEnd = none ∨ inc.yEnd = none) ∧
      (∀ a b, e.yEnd = some a → inc.yEnd = some b → (e.fold inc).yEnd = some (max a b)) ∧
      (e.fold inc).tracks = e.tracks ||| inc.tracks ∧ (e.fold inc).causes = e.causes ||| inc.cause.bit ∧
      (e.fold inc).openCauses = (if inc.yEnd = none then e.openCauses ||| inc.cause.bit else e.openCauses) ∧
      (e.fold inc).number = e.number ∧ (e.lane ≠ inc.lane → (e.fold inc).lane = none) ∧
      (e.lane = inc.lane → (e.fold inc).lane = e.lane) ∧
      ∀ a b, (e.meets a b = true ∨ (inc.yStart < b ∧ ∀ y, inc.yEnd = some y → a < y)) → (e.fold inc).meets a b = true) ∧
    ∀ (s : State) (inc : Incoming) (last : Stretch), s.cov.list.getLast? = some last → 32 ≤ s.cov.list.length →
      (∀ y, inc.yEnd = some y → passedCutter s y = false) →
      let t := enterStretch s inc
      t.cov.serial = s.cov.serial ∧ last.fold inc ∈ t.cov.list ∧ t.cov.list.length ≤ s.cov.list.length ∧
        ∀ e ∈ s.cov.list, e.order ≠ last.order → e ∈ t.cov.list

/-- The closed position (R68) is never beyond the gantry position, nor beyond the next line or the start of any open blob
of an inspecting lane; it is the gantry position while no lane inspects. -/
def Obligations.ClosedPositionIsBehind : Prop :=
  ∀ s : State, closedPosition s ≤ gantryPos s ∧
    (∀ i : LaneId, (s.lane i).state.inspecting = true →
      (∀ y, nextLine s i = some y → closedPosition s ≤ y) ∧ ∀ b ∈ openBlobs s i, closedPosition s ≤ b.yStart) ∧
    ((∀ i : LaneId, (s.lane i).state.inspecting = false) → closedPosition s = gantryPos s)

/-- An open-capable cause closes, opens and changes (R74 to R76, R70, R80). A part that closes at p leaves its cause's bit
in the carrying entry, which closes at the greater of p and its closed end when no other cause is left, and then leaves
if that is behind the cutter. A set that opens at p is carried from p by an open entry, a new one while the list has
room. A change that leaves the set as it is, or that comes in HALTED, leads to nothing. Any other one, with no boundary
to pass, is worked at the later of its position and the closed position; one that lands at or before the start of the
open part is worked just after that start, and one that lands before a boundary passed under a held Next set at that
boundary, after a closed filler where it adds tracks (log entry 12). The other causes' parts and sets stay. -/
def Obligations.OpenCausesChange : Prop :=
  (∀ (s : State) (oc : OpenCause) (p : Pos) (part : OpenPart) (e : Stretch),
    (s.cov.causeState oc).part = some part → (s.cov.list.find? fun x => decide (x.order = part.carrier)) = some e →
    let t := closePart s oc p
    let left := e.openCauses &&& ~~~oc.cause.bit
    let ends : Pos := match e.closedEnd with
      | some q => max p q
      | none => p
    let closed : Stretch := { e with openCauses := left, yEnd := if left = 0 then some ends else none }
    t.cov.causeState oc = { s.cov.causeState oc with part := none } ∧
    (∀ other, other ≠ oc → t.cov.causeState other = s.cov.causeState other) ∧ CoverageFrame s t ∧
    (∀ x, x.order ≠ part.carrier → (x ∈ t.cov.list ↔ x ∈ s.cov.list)) ∧
    (left ≠ 0 ∨ passedCutter s ends = false → closed ∈ t.cov.list) ∧
    (left = 0 → passedCutter s ends = true → ∀ x ∈ t.cov.list, x.order ≠ part.carrier)) ∧
  (∀ (s : State) (oc : OpenCause) (tracks : TrackSet) (p : Pos) (lane : Option LaneId),
    let t := openPart s oc tracks p lane
    (tracks = 0 → t = s.setCov (s.cov.setCause oc CauseState.empty)) ∧
    (tracks ≠ 0 → CarriedFrom t oc tracks p ∧ (∀ other, other ≠ oc → t.cov.causeState other = s.cov.causeState other) ∧
      CoverageFrame s t ∧
      (s.cov.list.length < 32 →
        { number := s.cov.serial, causes := oc.cause.bit, tracks := tracks, yStart := p, yEnd := none,
          openCauses := oc.cause.bit, closedEnd := none, lane := lane, order := s.cov.entered : Stretch } ∈ t.cov.list ∧
        s.cov.list.Sublist t.cov.list ∧ t.cov.list.length = s.cov.list.length + 1 ∧
        t.cov.serial = nextSerial s.cov.serial))) ∧
  ∀ (s : State) (cond : Condition) (position : Pos) (lane : Option LaneId),
    let p := max position (closedPosition s)
    let oc := cond.cause
    let was := s.cov.causeState oc
    let given := formSet s cond p
    let t := changeCause s cond position lane
    let early (q : Pos) : Prop := (∃ part, was.part = some part ∧ p ≤ part.start ∧ q = part.start + 1) ∨
      (was.part = none ∧ s.sst.next.isSome = true ∧ ∃ b, s.cov.boundary = some b ∧ p < b ∧ q = b)
    (s.sst.run = .halted ∨ given = was.tracks → t = s) ∧
    (s.sst.run ≠ .halted → given ≠ was.tracks → (∀ b, boundaryAhead s = some b → p < b) →
      ((∀ q, ¬ early q) → CarriedFrom t oc given p) ∧
      (∀ q, early q → CarriedFrom t oc (formSet s cond q) q ∧
        (given &&& ~~~was.tracks ≠ 0 → s.cov.list.length ≤ 30 → s.sst.next = none → passedCutter s q = false →
          ∃ e ∈ t.cov.list, e.causes = oc.cause.bit ∧ e.openCauses = 0 ∧ e.tracks = given ∧ e.yStart = p ∧
            e.yEnd = some q ∧ e.lane = lane)) ∧
      (∀ other, other ≠ oc → t.cov.causeState other = s.cov.causeState other) ∧ CoverageFrame s t)

/-- A product boundary (R79, R80). While Next is held in a run and its boundary is not passed, passing up to a position at
or beyond its effective position P passes it: each cause's part closes at P, and its set, formed under Next from the
lanes that inspect, the presence or its own track numbers, opens there. It is passed once, and nothing else passes it.
A closed stretch that crosses P is entered as two, each with the mask of its own part, and an empty mask enters none. At
the entry to RUNNING a boundary at or below the closed position c counts as passed, and the sets formed at c open there
in the order LANE, WIDTH, NO_GLASS; WIDTH is empty unless the last width check was made under the set in force at c. -/
def Obligations.BoundaryIsPassed : Prop :=
  (∀ (s : State) (y : Pos) (n : NextSet) (c : HeldSet), s.cov.Sound → s.sst.next = some n → s.sst.current = some c →
    let t := passBoundaryUpTo s y
    let all := trackMask n.held.set.tracks fun _ => true
    (s.sst.run = .halted ∨ s.cov.boundary.isSome = true ∨ y < n.effective → t = s) ∧
    (s.sst.run ≠ .halted → s.cov.boundary = none → n.effective ≤ y →
      t.cov.boundary = some n.effective ∧ CoverageFrame s t ∧ boundaryAhead t = none ∧
      CarriedFrom t .lane (trackMask n.held.set.tracks fun tr => !coveredBy s (inspectingLanes s) tr) n.effective ∧
      CarriedFrom t .noGlass (if s.rtk.presence = .disarmed then all else 0) n.effective ∧
      CarriedFrom t .width (s.cov.width.tracks &&& all) n.effective)) ∧
  (∀ (s : State) (cause : Cause) (mask : Pos → TrackSet) (a b : Pos) (lane : Option LaneId), s.cov.list.length ≤ 30 →
    passedCutter s b = false → passedCutter s a = false →
    let t := enterClosed s cause mask a b lane
    let entry (m : TrackSet) (x y : Pos) (e : Stretch) : Prop :=
      e.causes = cause.bit ∧ e.openCauses = 0 ∧ e.tracks = m ∧ e.yStart = x ∧ e.yEnd = some y ∧ e.lane = lane
    CoverageFrame s t ∧ s.cov.list.Sublist t.cov.list ∧
    (∀ n, s.sst.next = some n → a < n.effective → n.effective < b →
      (mask a ≠ 0 → ∃ e ∈ t.cov.list, entry (mask a) a n.effective e) ∧
      (mask n.effective ≠ 0 → ∃ e ∈ t.cov.list, entry (mask n.effective) n.effective b e) ∧
      (mask a = 0 → mask n.effective = 0 → t = s)) ∧
    ((∀ n, s.sst.next = some n → ¬ (a < n.effective ∧ n.effective < b)) →
      (mask a ≠ 0 → (∃ e ∈ t.cov.list, entry (mask a) a b e) ∧ t.cov.list.length = s.cov.list.length + 1) ∧
      (mask a = 0 → t = s))) ∧
  ∀ (s : State) (h : HeldSet),
    let c := closedPosition s
    s.cov.Sound → setAt s c = some h →
    let t := startCoverage s
    let blind := trackMask h.set.tracks fun tr => !coveredBy s (inspectingLanes s) tr
    let absent := trackMask h.set.tracks fun _ => decide (s.rtk.presence = .disarmed)
    let narrow : TrackSet :=
      if s.rtk.checkedSet = some h.serial then s.rtk.violated &&& trackMask h.set.tracks fun _ => true else 0
    CoverageFrame s t ∧
    t.cov.boundary = (s.sst.next.bind fun n => if n.effective ≤ c then some n.effective else none) ∧
    CarriedFrom t .lane blind c ∧ CarriedFrom t .width narrow c ∧ CarriedFrom t .noGlass absent c ∧
    (s.cov.list = [] →
      t.cov.list.map (fun e => (e.causes, e.tracks)) =
        [(Cause.lane.bit, blind), (Cause.width.bit, narrow), (Cause.noGlass.bit, absent)].filter fun x => decide (x.2 ≠ 0))

/-! ## Grading -/

/-- R89, R90 and R91: a member's points from its size and its class's row, their weight in the edge zone, and the plate's
points. R92 and R94: the points grade and the counts grade are the best of A, B and C whose limits hold, else REJECT. A
count limit of 255 is no limit. -/
def Obligations.MemberPoints : Prop :=
  ((∀ (g : GradingRow) (size : Nat), g.base ≤ g.peak →
    (size < g.ignoreSize → flawPoints g size = 0) ∧
      (g.ignoreSize ≤ size → g.ignoreSize + g.range ≤ size → flawPoints g size = g.peak) ∧
      (g.ignoreSize ≤ size → size < g.ignoreSize + g.range →
        flawPoints g size = g.base + (g.peak - g.base) * (size - g.ignoreSize) / g.range ∧
          g.base ≤ flawPoints g size ∧ flawPoints g size ≤ g.peak ∧
          (g.peak ≤ 4095 → (g.peak - g.base) * (size - g.ignoreSize) ≤ 4095 * 2047) ∧
          ∀ size', size ≤ size' → flawPoints g size ≤ flawPoints g size') ∧
      (g.range = 0 → flawPoints g size = if size < g.ignoreSize then 0 else g.peak) ∧
      (0 < g.range → flawPoints g g.ignoreSize = g.base) ∧ flawPoints g (g.ignoreSize + g.range) = g.peak ∧
      (g.peak ≤ 4095 → flawPoints g size ≤ 4095)) ∧
    (∀ (p : ProductSet) (r : Rectangle) (f : Flaw),
      let g := p.row f.flawClass
      (inEdgeZone p.zoneWidth r f = false → weightedPoints p r f = flawPoints g f.size) ∧
        (inEdgeZone p.zoneWidth r f = true → weightedPoints p r f = flawPoints g f.size * g.edgeWeight / 16) ∧
        (g.edgeWeight = 16 → weightedPoints p r f = flawPoints g f.size) ∧
        (g.edgeWeight = 0 → inEdgeZone p.zoneWidth r f = true → weightedPoints p r f = 0) ∧
        (g.base ≤ g.peak → g.peak ≤ 4095 → g.edgeWeight ≤ 64 → weightedPoints p r f ≤ 16380)) ∧
    ∀ (p : ProductSet) (r : Rectangle) (members : List MapEntry),
      platePoints p r members = min ((members.map fun e => weightedPoints p r e.flaw).sum) 65535 ∧
        (∀ other : List MapEntry, other.Perm members → platePoints p r other = platePoints p r members) ∧
        platePoints p r [] = 0 ∧ platePoints p r members ≤ 65535 ∧
        (p.pointsA ≤ p.pointsB → p.pointsB ≤ p.pointsC → p.pointsC < 65535 → pointsGrade p 65535 = .reject)) ∧
  (∀ (p : ProductSet) (n : Nat), p.pointsA ≤ p.pointsB → p.pointsB ≤ p.pointsC →
    (pointsGrade p n = .a ↔ n ≤ p.pointsA) ∧ (pointsGrade p n = .b ↔ p.pointsA < n ∧ n ≤ p.pointsB) ∧
      (pointsGrade p n = .c ↔ p.pointsB < n ∧ n ≤ p.pointsC) ∧ (pointsGrade p n = .reject ↔ p.pointsC < n) ∧
      pointsGrade p 0 = .a) ∧
    ∀ (p : ProductSet) (members : List MapEntry),
      let holds (limit : GradingRow → Nat) : Prop := ∀ c : Fin 16,
        limit p.rows[c] = 255 ∨ min (members.countP fun e => decide (e.flaw.flawClass = c.val)) 255 ≤ limit p.rows[c]
      let grade := countsGrade p (classCounts members)
      (grade = .a ↔ holds GradingRow.limitA) ∧ (grade = .b ↔ ¬ holds GradingRow.limitA ∧ holds GradingRow.limitB) ∧
        (grade = .c ↔ ¬ holds GradingRow.limitA ∧ ¬ holds GradingRow.limitB ∧ holds GradingRow.limitC) ∧
        (grade = .reject ↔ ¬ holds GradingRow.limitA ∧ ¬ holds GradingRow.limitB ∧ ¬ holds GradingRow.limitC) ∧
        (members = [] → grade = .a)

/-- R97 and R98: the final grade is the worst of the points grade, the counts grade and the overrides that apply, and the
grade causes are those of the judgements that gave it. A plate graded A, B or C has no blind stretch of its track over
it and no member at or above its class's absolute size. -/
def Obligations.FinalGradeAndCauses : Prop :=
  (∀ (points counts : Grade) (absolute : Bool) (coverage : CoverageAnswer),
    let final := finalGrade points counts absolute coverage
    let overrides : List Grade := (if absolute = true then [.reject] else []) ++ (coverageGrade coverage).toList
    final ∈ points :: counts :: overrides ∧ (∀ g ∈ points :: counts :: overrides, g.rank ≤ final.rank) ∧
      (points.rank ≤ 3 ∨ points = .reject → counts.rank ≤ 3 ∨ counts = .reject →
        let causes := gradeCauses points counts absolute coverage
        (causes.getLsbD 0 = true ↔ points = final) ∧ (causes.getLsbD 1 = true ↔ counts = final) ∧
          (causes.getLsbD 2 = true ↔ absolute = true ∧ final = .reject) ∧
          (causes.getLsbD 3 = true ↔ coverage = .blind ∧ final = .unverified) ∧
          (causes.getLsbD 4 = true ↔ coverage = .width) ∧ causes ≠ 0 ∧
          (final.rank ≤ 3 → causes.getLsbD 0 = true ∨ causes.getLsbD 1 = true) ∧
          (final = .reject → causes.getLsbD 0 = true ∨ causes.getLsbD 1 = true ∨ causes.getLsbD 2 = true) ∧
          (final = .unverified → causes.getLsbD 3 = true) ∧ (final = .short → causes.getLsbD 4 = true))) ∧
    finalGrade .b .a false .clear = .b ∧ finalGrade .a .c false .clear = .c ∧
    finalGrade .b .b false .blind = .unverified ∧ finalGrade .a .a true .clear = .reject ∧
    finalGrade .reject .a false .blind = .reject ∧ finalGrade .a .a true .width = .short ∧
    ∀ (s : State) (p : ProductSet) (n : Nat) (track : Track) (a b : Pos),
      (gradePlate s p n track a b).grade.rank ≤ 3 →
      (∀ e ∈ s.cov.list, e.tracks.getLsbD (n - 1) = true → e.yStart < b → ∃ y, e.yEnd = some y ∧ y ≤ a) ∧
        ∀ e ∈ s.fas.map, e.flaw.xMin < track.hi → track.lo < e.flaw.xEnd → e.flaw.yStart < b → a < e.flaw.yEnd →
          (p.row e.flaw.flawClass).absolute = 0 ∨ e.flaw.size < (p.row e.flaw.flawClass).absolute

/-! ## The Cut Planner -/

/-- The choice of an order line (R110 to R112): a step's candidates stand in increasing line index, each graded over its
segment; a candidate's score is its value times its credit, the greatest score wins and the lowest index among equals,
and the winner's plates take their destinations in track order. R117, with the commit floor and the other fixed ends
(section 6.5): a BOUNDARY segment ends at the effective position when its distance D lies between C_min and C_max, at
F + C_max when D is greater and at F + C_min, beyond the effective position, when it is less; the end becomes the greater
of that and k + 1. Such a segment is BOUNDARY again while Next is pending and no line is eligible. -/
def Obligations.CandidatesAndCulletEnds : Prop :=
  ((∀ (s : State) (v : PlanView), planView s = some v →
    (candidates s v).Pairwise fun x y => x.index < y.index) ∧
    (∀ (s : State) (v : PlanView) (c : Candidate), c ∈ candidates s v →
    (c.index, c.book) ∈ v.eligible ∧ v.frontier + c.book.line.length ≤ v.closed ∧
      v.limit < v.frontier + c.book.line.length ∧
      c.plates = gradePlates s v.set v.frontier (v.frontier + c.book.line.length) ∧
      c.credit = (match c.book.remaining with
        | some q => min (c.plates.countP fun r => decide (r.grade.rank ≤ c.book.line.grade.rank)) q
        | none => c.plates.countP fun r => decide (r.grade.rank ≤ c.book.line.grade.rank)) ∧
      c.score = c.book.line.value * c.credit) ∧
    (∀ cs : List Candidate, cs.Pairwise (fun x y => x.index < y.index) →
      (bestCandidate cs = none ↔ cs = []) ∧
        ∀ c, bestCandidate cs = some c → c ∈ cs ∧
          ∀ x ∈ cs, x.score ≤ c.score ∧ (x.score = c.score → c.index ≤ x.index)) ∧
    ∀ (l : OrderLine) (credit : Nat) (plates : List PlateResult),
      (destinations l credit plates).map Plate.result = plates ∧
        ∀ (k : Nat) (r : PlateResult), plates[k]? = some r →
          (destinations l credit plates)[k]?.map Plate.destination = some
            (if l.grade.rank < r.grade.rank then .offgrade
              else if (plates.take k).countP (fun x => decide (x.grade.rank ≤ l.grade.rank)) < credit then .order
              else .surplus)) ∧
  ∀ (s : State) (v : PlanView), v.settings.culletMin ≤ v.settings.culletMax →
    (∀ p : Pos, v.boundary = some p →
      ((v.settings.culletMin : Int) ≤ p - v.frontier → p - v.frontier ≤ v.settings.culletMax →
        culletEnd s v .boundary = max p (v.limit + 1)) ∧
        ((v.settings.culletMax : Int) < p - v.frontier →
          culletEnd s v .boundary = max (v.frontier + v.settings.culletMax) (v.limit + 1)) ∧
        (p - v.frontier < v.settings.culletMin →
          culletEnd s v .boundary = max (v.frontier + v.settings.culletMin) (v.limit + 1) ∧
            p < culletEnd s v .boundary) ∧
        (v.eligible = [] → culletCause v false = .boundary)) ∧
      culletEnd s v .forced = max (v.frontier + v.settings.culletMin) (v.limit + 1) ∧
      culletEnd s v .idle = max (v.frontier + v.settings.culletMax) (v.limit + 1) ∧
      (v.frontier + v.settings.culletMin ≤ culletEnd s v .cutout ∧
        culletEnd s v .cutout ≤ max (v.frontier + v.settings.culletMax) (v.limit + 1)) ∧
      ∀ cause, v.limit < culletEnd s v cause

/-- PLAN_STEP (R108, R122, R125, R126, R129). Where its condition holds, the turn is counted, the pending amendments are
applied in their order, and a Next that the frontier has reached becomes Current; from the state u so reached the step
goes on with what R106 to R108 ask for. It ends there when nothing is near enough, the Cut List is full, or a full
Segment Queue meets no urgency. An urgent step with the queue full hands over a runout cut, in RUNOUT, which it enters
if it must with a count of 0. Any other one ends RUNOUT if need be and enters the segment that stage 6 decides, with its
end cut, above the commit limit. Where other events come into a step (R109) is left open, so this is what it has done
once it is at its end (log entry 23), with nothing between. Outside its condition the command has no effect but for the
bytes it carries (R106, log entry 5). -/
def Obligations.PlanStepPlans : Prop :=
  ∀ (s : State) (written : List Host.Cell),
    let r : State := { s with mem := s.mem.storeCells written, cpl := { s.cpl with turns := s.cpl.turns + 1 } }
    let u := takeNextAt (applyPending r)
    let reached : Prop := ∃ n f, s.sst.next = some n ∧ s.cpl.frontier = some f ∧ n.effective ≤ f
    (planDue s = false → exec (.planStep written) s = .next { s with mem := s.mem.storeCells written }) ∧
    (s.cpl.amendments = [] → ¬ reached → u = r) ∧
    (u.cpl = { s.cpl with amendments := [], turns := s.cpl.turns + 1 }) ∧ u.out.cuts = s.out.cuts ∧
    (∀ h, s.sst.current = some h → ¬ reached → s.cpl.amendments.Pairwise (fun x y => x.line < y.line) →
      ∃ h', u.sst = { s.sst with current := some h' } ∧ h'.set = h.set ∧ h'.serial = h.serial ∧
        h'.book.length = h.book.length ∧
        (∀ k b, h.book[k]? = some b → h'.book[k]? = some
          (match s.cpl.amendments.find? fun a => decide (a.line = k + 1) with
            | some a => { b with lastSet := a.quantity, remaining := a.quantity }
            | none => b)) ∧
        ∀ a, s.cpl.amendments.getLast? = some a → u.xch.edits[RequestSection.amendment.index].accepted = a.edit) ∧
    (∀ n h, s.sst.next = some n → s.sst.current = some h → reached → u.sst.current = some n.held) ∧
    (s.cpl.step = none → stepCondition s = true →
      ∃ t, exec (.planStep written) s = .next t ∧ (finishStep t).cpl.step = none ∧
        ∀ v, planView u = some v →
          let e := finishStep t
          let goes : Prop := (v.frontier + v.span ≤ v.closed ∨ v.urgent = true) ∧ u.out.cuts.length < 32
          let full : Prop := 24 ≤ u.cpl.queue.length
          (¬ goes ∨ (full ∧ v.urgent = false) → t = u) ∧
          (goes → full → v.urgent = true →
            let position := max (v.frontier + v.settings.culletMax) (v.limit + 1)
            e.cpl = { u.cpl with state := .runout, frontier := some position
                                 runouts := (if u.cpl.state = .planning then 0 else u.cpl.runouts) + 1 } ∧
              CutHanded u e { position := position, owner := none, due := false, deferred := false } ∧ PlanFrame u e ∧
              e.sst = u.sst ∧ (u.cpl.state = .planning → e.xch.lastFault = 14) ∧
              (u.cpl.state = .runout → e.mem = u.mem ∧ e.xch.lastFault = u.xch.lastFault)) ∧
          (goes → ¬ full →
            let d := decideSegment v (candidates u v)
            let stop := decisionEnd u v d
            let cut : Cut := { position := stop, owner := some u.cpl.serial, due := false, deferred := false }
            let g : Segment :=
              { number := u.cpl.serial, kind := d.kind, yStart := v.frontier, yEnd := stop, setNumber := v.set.number,
                late := false, lateness := 0, state := .planned }
            let fires : Prop := u.out.cuts = [] ∧ atFirePoint u cut = true ∧ u.out.strobe.phase = .ready
            let planner (g : Segment) : Planner :=
              { u.cpl with state := .planning, queue := u.cpl.queue ++ [g], serial := nextSerial u.cpl.serial,
                           frontier := some stop }
            v.limit < stop ∧ CutHanded u e cut ∧ PlanFrame u e ∧ (u.cpl.state = .planning → e.mem = u.mem) ∧
            (¬ fires → e.cpl = planner g) ∧
            (fires → (∀ x ∈ u.cpl.queue, x.number ≠ u.cpl.serial) → e.cpl = planner { g with state := .cut }) ∧
            (∀ cause, d = .cullet cause → stop = culletEnd u v cause ∧ e.sst = u.sst) ∧
            ∀ c h, d = .order c → u.sst.current = some h →
              (c.index, c.book) ∈ v.eligible ∧ stop = v.frontier + c.book.line.length ∧ stop ≤ v.closed ∧
                c.plates = gradePlates u v.set v.frontier stop ∧
                ∃ h', e.sst = { u.sst with current := some h' } ∧ h'.set = h.set ∧ h'.serial = h.serial ∧
                  ∀ k b, h.book[k]? = some b → h'.book[k]? = some
                    (if k + 1 = c.index then { b with remaining := b.remaining.map fun q => q - c.credit } else b)))

/-- A plan step in its course (R109). Where other events come into it is a free value (log entry 23): it may begin, or go
on, through any number of its grading requests, and every way it can do so is shown here. What it has done before its
end enters nothing; each request is answered from the Flaw Map and the Blind Stretch List as they stand when it is
taken; and finishing it at once gives what a step made at one moment gives. At its end the commit limit is read again: a
step whose end or runout cut is no longer above it is abandoned and enters nothing, and else it is entered. A PROMPT, a
RESET and a SEGMENT_REPORT find the step at its end, which is the order this model takes (log entry 23); no other
command, but for POWER_ON and those that make a poll or a halt, touches a step in progress. -/
def Obligations.PlanStepInParts : Prop :=
  (∀ (s : State) (written : List Host.Cell), planDue s = true →
    let r : State := { s with mem := s.mem.storeCells written, cpl := { s.cpl with turns := s.cpl.turns + 1 } }
    ∃ pause : Option Nat,
      (s.cpl.step = none → exec (.planStep written) s = .next (beginStep pause r)) ∧
        ∀ p, s.cpl.step = some p → exec (.planStep written) s = .next (resumeStep pause r p)) ∧
  (∀ (s : State) (n : Nat), s.cpl.step = none →
    let t := beginStep (some n) s
    t.cpl.queue = s.cpl.queue ∧ t.cpl.serial = s.cpl.serial ∧ t.cpl.frontier = s.cpl.frontier ∧
      t.out = s.out ∧ t.rtk = s.rtk ∧ t.lanes = s.lanes ∧ t.fas = s.fas ∧ finishStep t = beginStep none s ∧
      (finishStep t).cpl.step = none) ∧
  (∀ (s : State) (p : PlanProgress) (n : Nat), s.cpl.step = some p →
    (p.requests = [] → resumeStep (some n) s p = finishStep s) ∧
    (p.requests ≠ [] → resumeStep (some n) s p =
      { s with cpl := { s.cpl with step := some { p with
          requests := p.requests.drop (n + 1)
          results := p.results ++ (p.requests.take (n + 1)).map fun q =>
            (q.length, gradePlate s p.view.set q.track q.interval p.view.frontier (p.view.frontier + q.length)) } } } ∧
      finishStep (resumeStep (some n) s p) = finishStep s)) ∧
  (∀ (s : State) (p : PlanProgress) (k : Pos), s.cpl.step = some p → commitLimit s = some k →
    let results := p.results ++ p.requests.map fun q =>
      (q.length, gradePlate s p.view.set q.track q.interval p.view.frontier (p.view.frontier + q.length))
    let d := decideSegment p.view (candidatesFrom p.view results)
    let stop := if p.runout = true then max (p.view.frontier + p.view.settings.culletMax) (p.view.limit + 1)
      else decisionEnd s p.view d
    (stop ≤ k → finishStep s = { s with cpl := { s.cpl with step := none } }) ∧
    (k < stop → (finishStep s).cpl.frontier = some stop ∧ (finishStep s).cpl.step = none ∧
      (p.runout = true → (finishStep s).cpl.queue = s.cpl.queue ∧
        (finishStep s).cpl.runouts = s.cpl.runouts + 1 ∧
        CutHanded s (finishStep s) { position := stop, owner := none, due := false, deferred := false }) ∧
      (p.runout = false → (finishStep s).cpl.queue.length = s.cpl.queue.length + 1 ∧
        (finishStep s).cpl.serial = nextSerial s.cpl.serial ∧
        CutHanded s (finishStep s) { position := stop, owner := some s.cpl.serial, due := false, deferred := false }))) ∧
  (∀ (s : State) (value : BitVec 32) (written : List Host.Cell),
    let e := finishStep { s with mem := s.mem.storeCells written }
    exec (.prompt value written) s = exec (.prompt value []) e ∧ exec (.reset value written) s = exec (.reset value []) e ∧
      exec .segmentReport s = exec .segmentReport (finishStep s)) ∧
  ∀ (c : Instr) (s t : State), exec c s = .next t →
    (c = .forwardStep ∨ c = .reverseStep ∨ c = .rlePulse ∨ c = .gatePhaseEnd ∨ c = .stall ∨ c = .slipPhaseEnd ∨
      c = .slipOver ∨ c = .snapshotWrite ∨ c = .pulseEnd ∨ c = .gapEnd ∨ (∃ n, c = .nozzlePulseEnd n) ∨
      (∃ i bytes, c = .linePacket i bytes) ∨ (∃ v, c = .attnWrite v ∨ c = .attnEnWrite v) ∨
      ∃ q v, c = .ignoredRegisterWrite q v) → t.cpl.step = s.cpl.step

/-- RUNOUT begins and ends (R125, R126). A step that must make a runout cut enters RUNOUT from PLANNING, with a count of 0
and the urgent START notice with the frontier; one already in RUNOUT writes none. A step that finds room, and a change
to DRAINING, end it with the END notice, which carries the count and is not urgent; the count is kept. After a runout
cut no step is urgent until the commit limit has reached that cut, whatever boundary is then pending. -/
def Obligations.RunoutBeginsAndEnds : Prop :=
  (∀ (s : State) (v : PlanView),
    let t := openRunout s v
    let p : PlanProgress := { view := v, runout := true, requests := [], results := [] }
    (s.cpl.state = .planning →
      t.cpl = { s.cpl with state := .runout, runouts := 0, step := some p } ∧
        Noticed s t .runout true [(0, le 1 0), (4, le 4 0), (8, lePos s.cpl.frontier)] ∧ PlanFrame s t ∧ t.out = s.out) ∧
    (s.cpl.state ≠ .planning → t = { s with cpl := { s.cpl with step := some p } })) ∧
  (∀ (s : State) (v : PlanView),
    let t := openGrading s v
    let p : PlanProgress := { view := v, runout := false, requests := v.gradingRequests, results := [] }
    (s.cpl.state = .runout →
      t.cpl = { s.cpl with state := .planning, step := some p } ∧
        Noticed s t .runout false [(0, le 1 1), (4, le 4 s.cpl.runouts.toNat), (8, lePos s.cpl.frontier)] ∧
        PlanFrame s t ∧ t.out = s.out) ∧
    (s.cpl.state ≠ .runout → t = { s with cpl := { s.cpl with step := some p } })) ∧
  (∀ s : State, s.cpl.amendments = [] →
    let t := drainPlanner s
    t.cpl = { s.cpl with state := .draining, step := none } ∧
      (s.cpl.state = .runout →
        Noticed s t .runout false [(0, le 1 1), (4, le 4 s.cpl.runouts.toNat), (8, lePos s.cpl.frontier)] ∧
          PlanFrame s t ∧ t.out = s.out) ∧
      (s.cpl.state ≠ .runout → t = { s with cpl := t.cpl })) ∧
  ∀ (v : PlanView) (boundary : Option Pos), v.settings.urgencyMargin ≤ v.settings.culletMin →
    let w : PlanView := { v with frontier := max (v.frontier + v.settings.culletMax) (v.limit + 1), boundary := boundary }
    v.limit < w.frontier ∧ w.urgent = false ∧ ∀ k : Pos, { w with limit := k }.urgent = true → w.frontier ≤ k

/-- SEGMENT_REPORT (R124): after the end of a plan step in progress (log entry 23) the oldest segment, CUT, leaves the queue
when the plate journal has room for all its records, one for each plate of an ORDER segment and one of a CULLET segment,
and the write count rises by their number. A segment whose records do not all fit waits whole, and where nothing can be
reported the command has no more effect (log entry 5). -/
def Obligations.SegmentIsReported : Prop :=
  (∀ (s : State) (g : Segment) (rest : List Segment),
    let u := finishStep s
    u.cpl.queue = g :: rest → g.state = .cut →
    (s.cpl.step = none → u = s) ∧
    (segmentRecords g).length = (match g.kind with
      | .order _ _ plates => plates.length
      | .cullet _ => 1) ∧
    (u.xch.plate.roomFor (segmentRecords g).length = true →
      ∃ t, exec .segmentReport s = .next t ∧ t.cpl = { u.cpl with queue := rest } ∧
        t.xch.plate = { u.xch.plate with
          writeCount := u.xch.plate.writeCount + BitVec.ofNat 32 (segmentRecords g).length } ∧
        t.xch.flaw = u.xch.flaw ∧ t.xch.notice = u.xch.notice ∧
        t.timeBase = u.timeBase ∧ t.rtk = u.rtk ∧ t.laneMask = u.laneMask ∧ t.lanes = u.lanes ∧ t.fas = u.fas ∧
        t.cov = u.cov ∧ t.out = u.out ∧ t.tly = u.tly ∧ t.sst = u.sst ∧ ExchangeFrame u t ∧ MemoryFrame u t) ∧
    (u.xch.plate.roomFor (segmentRecords g).length = false → exec .segmentReport s = .next u)) ∧
    ∀ s : State, (∀ g, (finishStep s).cpl.queue.head? = some g → g.state ≠ .cut) →
      exec .segmentReport s = .next (finishStep s)

/-- An amendment for a line of the Current set is applied at once in IDLE and DRAINING and made pending in PLANNING and
RUNOUT, one for a line, in increasing line index; any other is refused with a notice and leaves the book, the pending
amendments and the last accepted edit number alone (R128, R129). -/
def Obligations.AmendmentsAreTaken : Prop :=
  ∀ (s : State) (target : BitVec 32) (a : Amendment),
    let t := takeAmendment s target a
    (∀ h : HeldSet, s.sst.current = some h → h.set.number = target → 1 ≤ a.line → a.line ≤ h.book.length →
      ((s.cpl.state = .idle ∨ s.cpl.state = .draining) →
        (∃ h', t.sst = { s.sst with current := some h' } ∧ h'.set = h.set ∧ h'.serial = h.serial ∧
          h'.book.length = h.book.length ∧
          ∀ k b, h.book[k]? = some b → h'.book[k]? = some
            (if k + 1 = a.line then { b with lastSet := a.quantity, remaining := a.quantity } else b)) ∧
          t.xch.edits[RequestSection.amendment.index].accepted = a.edit ∧ t.cpl = s.cpl ∧ t.mem = s.mem) ∧
      ((s.cpl.state = .planning ∨ s.cpl.state = .runout) →
        t = { s with cpl := { s.cpl with amendments := t.cpl.amendments } } ∧
          (∀ x, x ∈ t.cpl.amendments ↔ x = a ∨ (x ∈ s.cpl.amendments ∧ x.line ≠ a.line)) ∧
          (s.cpl.amendments.Pairwise (fun x y => x.line < y.line) →
            t.cpl.amendments.Pairwise (fun x y => x.line < y.line)))) ∧
      ((∀ h : HeldSet, s.sst.current = some h → h.set.number ≠ target ∨ a.line = 0 ∨ h.book.length < a.line) →
        t.sst = s.sst ∧ t.cpl = s.cpl ∧ t.xch.edits = s.xch.edits ∧
          (s.xch.notice.roomFor 1 = true → t.xch.notice.writeCount = s.xch.notice.writeCount + 1))

/-! ## The outputs -/

/-- PULSE_END, GAP_END and NOZZLE_PULSE_END (R134, R139), each the next event by time (log entries 5 and 7): the output
goes low, and the strobe enters GAP until the pulse end plus the strobe gap, or READY. A head cut that is not due at the
gap end and not at its fire point stays listed as it is. One that is due, or falls due at that test, fires (R132, R133,
R123): the strobe enters PULSE for the strobe width, the cut leaves the list, and its owner moves from PLANNED to CUT
with the cut's LATE flag and lateness; no other segment changes. It is late only if it fell due before. -/
def Obligations.PulsesEnd : Prop :=
  (∀ (s : State) (l : LineSettings), s.sst.settings = some l → s.out.strobe.phase = .pulse →
    waitFor s.timeBase s.out.strobe.ends ≤ nextWait s →
    ∃ t, exec .pulseEnd s = .next t ∧
      t.out = { s.out with strobe := { phase := .gap, high := false, ends := s.out.strobe.ends + millis l.strobeGap } } ∧
      t = { elapse s (waitFor s.timeBase s.out.strobe.ends) with out := t.out }) ∧
    (∀ s : State, s.out.strobe.phase = .gap →
      (∀ h, s.out.cuts.head? = some h → h.due = false ∧ atFirePoint s h = false) →
      waitFor s.timeBase s.out.strobe.ends ≤ nextWait s →
      ∃ t, exec .gapEnd s = .next t ∧
        t.out = { s.out with strobe := { phase := .ready, high := false, ends := s.out.strobe.ends } } ∧
        t = { elapse s (waitFor s.timeBase s.out.strobe.ends) with out := t.out }) ∧
    (∀ (s : State) (l : LineSettings) (h : Cut) (rest : List Cut), s.sst.settings = some l → s.out.strobe.phase = .gap →
      s.out.cuts = h :: rest → h.due = true ∨ atFirePoint s h = true →
      waitFor s.timeBase s.out.strobe.ends ≤ nextWait s →
      ∃ t, exec .gapEnd s = .next t ∧
        t.timeBase = s.timeBase + BitVec.ofNat 48 (waitFor s.timeBase s.out.strobe.ends) ∧
        t.out.strobe = { phase := .pulse, high := true, ends := t.timeBase + millis l.strobeWidth } ∧
        t.out.cuts.map Cut.position = rest.map Cut.position ∧ t.out.cuts.map Cut.owner = rest.map Cut.owner ∧
        t.out.marks = s.out.marks ∧ t.out.nozzles = s.out.nozzles ∧ t.out.hold = s.out.hold ∧
        (let late := h.due && h.deferred
         let lead : Nat := s.rtk.gate.heldSpeed.toNat * l.cutterDelay / 1000
         let cutter : Pos := (s.rtk.gantry.toNat : Int) - l.cutterDistance
         let lateness : Nat := if late = true then min (cutter - (h.position - lead)).toNat (2 ^ 32 - 1) else 0
         t.cpl = { s.cpl with
           queue := s.cpl.queue.map fun g =>
             if h.owner = some g.number ∧ g.state = .planned
             then { g with state := .cut, late := late, lateness := lateness } else g }) ∧
        t.laneMask = s.laneMask ∧ t.lanes = s.lanes ∧ t.fas = s.fas ∧ t.cov = s.cov ∧ t.sst = s.sst ∧ MemoryFrame s t) ∧
    (∀ (s : State) (n : Fin 4), s.out.nozzles[n].busy = true →
      waitFor s.timeBase s.out.nozzles[n].ends ≤ nextWait s →
      ∃ t, exec (.nozzlePulseEnd n) s = .next t ∧
        t.out = { s.out with nozzles := t.out.nozzles } ∧ t.out.nozzles[n].busy = false ∧
        t.out.nozzles[n].high = false ∧ (∀ m, m ≠ n → t.out.nozzles[m] = s.out.nozzles[m]) ∧
        t = { elapse s (waitFor s.timeBase s.out.nozzles[n].ends) with out := t.out }) ∧
    ∀ (s : State) (k : Nat), elapse s k =
      { s with timeBase := s.timeBase + BitVec.ofNat 48 k, rtk := { s.rtk with gate := s.rtk.gate.elapse k },
               xch := { s.xch with pollTimer := s.xch.pollTimer - k } }

/-- An offer for marking (R136, R137): the outcomes in their order, HOLD, TRIM, LATE, FULL and PLANNED; a planned mark
joins the list by Y start, behind every earlier entry of the same Y start and within 64 entries, and any other outcome
leaves the list and raises MARK_NOT_MADE with its selector. -/
def Obligations.MarksAreOffered : Prop :=
  ∀ (s : State) (flaw : BitVec 32) (tracks : TrackSet) (y : Pos),
    let t := offerMark s flaw tracks y
    let outcome := markOutcome s tracks y
    (outcome = if s.out.hold = true then .hold else if tracks = 0 then .trim else if markDue s y = true then .late
      else if 64 ≤ s.out.marks.length then .full else .planned) ∧
      (outcome = .planned →
        t = { s with out := { s.out with marks := t.out.marks } } ∧
          t.out.marks.length = s.out.marks.length + 1 ∧ t.out.marks.length ≤ 64 ∧
          (∃ before after, s.out.marks = before ++ after ∧
            t.out.marks = before ++ { flaw := flaw, nozzles := tracks, yStart := y } :: after ∧
            (∀ m ∈ before, m.yStart ≤ y) ∧
            (s.out.marks.Pairwise (fun a b => a.yStart ≤ b.yStart) → ∀ m ∈ after, y < m.yStart)) ∧
          (s.out.marks.Pairwise (fun a b => a.yStart ≤ b.yStart) →
            t.out.marks.Pairwise (fun a b => a.yStart ≤ b.yStart))) ∧
      (outcome = .hold → t = tallyEvent s .markNotMade 0 none) ∧
      (outcome = .trim → t = tallyEvent s .markNotMade 1 none) ∧
      (outcome = .late → t = tallyEvent s .markNotMade 2 none) ∧
      (outcome = .full → t = tallyEvent s .markNotMade 3 none)

/-- The firing of marks (R138, R139). The test takes every entry from the head on whose fire point has been reached, in
list order, and leaves the rest; each nozzle of a fired mask goes high and BUSY until a marker width from now, whether
it was READY or BUSY, with one MARK_FIRED event for each trigger; no other nozzle, and neither the Cut List, the strobe
nor the hold, changes. At a gate phase end the marks that fire are those that the new lead brings to their fire point. -/
def Obligations.MarksFire : Prop :=
  (∀ (s : State) (l : LineSettings), s.sst.settings = some l →
    let fired := s.out.marks.takeWhile fun m => markDue s m.yStart
    let t := testMarks s
    t = { s with out := { s.out with marks := t.out.marks, nozzles := t.out.nozzles },
                 tly := { s.tly with counters := t.tly.counters },
                 xch := { s.xch with attn := t.xch.attn, line := t.xch.line } } ∧
    s.out.marks = fired ++ t.out.marks ∧ (∀ m, t.out.marks.head? = some m → markDue s m.yStart = false) ∧
    (∀ n : Fin 4,
      ((∃ m ∈ fired, m.nozzles.getLsbD n.val = true) →
        t.out.nozzles[n] = { busy := true, high := true, ends := s.timeBase + millis l.markerWidth }) ∧
      ((∀ m ∈ fired, m.nozzles.getLsbD n.val = false) → t.out.nozzles[n] = s.out.nozzles[n])) ∧
    t.tly.counters =
      ((fired.flatMap fun m => [1, 2, 3, 4].filter fun n => m.nozzles.getLsbD (n - 1)).foldl
        (fun u n => tallyEvent u .markFired n none) s).tly.counters) ∧
  ∀ (s t : State), gateEndDue s = true → exec .gatePhaseEnd s = .next t →
    t.out.marks = s.out.marks.dropWhile (fun m => markDue t m.yStart) ∧
      ∀ n : Fin 4, (∀ m ∈ s.out.marks, m.nozzles.getLsbD n.val = false) → t.out.nozzles[n] = s.out.nozzles[n]

/-- The marker hold and the marks it cancels (R140, R141). A hold that turns on sets every nozzle low and READY, empties the
Mark List with one MARK_NOT_MADE event of selector 4 for each entry, and writes MARKS_CANCELLED with the cause HOLD and
their number, 0 as well; while it is on every offer is answered NOT_MARKED_HOLD. One that turns off changes nothing
else, and a section that leaves the hold as it is does nothing. At a taking of line settings the list is emptied in the
same way, with the cause SETTINGS and a notice only when it held an entry; the nozzles and the hold stay. -/
def Obligations.HoldCancelsMarks : Prop :=
  let cancelled (s t : State) (cause : Nat) : Prop :=
    let k := s.out.marks.length
    t = { s with out := t.out, tly := t.tly, xch := t.xch, mem := t.mem } ∧ ReportFrame s t ∧
    Noticed s t .marksCancelled false [(0, le 1 cause), (1, le 1 k)] ∧
    (s.xch.notice.roomFor 1 = true →
      t.tly.counters = ((fun u => tallyEvent u .markNotMade 4 none)^[k] s).tly.counters) ∧
    (s.xch.notice.roomFor 1 = false →
      t.tly.counters = (tallyEvent ((fun u => tallyEvent u .markNotMade 4 none)^[k] s) .journalWithheld 2 none).tly.counters)
  (∀ s : State, s.out.hold = false →
    let t := takeHold s true
    cancelled s t 0 ∧ t.out = { s.out with hold := true, marks := [], nozzles := t.out.nozzles } ∧
      (∀ n : Fin 4, t.out.nozzles[n] = { s.out.nozzles[n] with busy := false, high := false }) ∧
      ∀ tracks y, markOutcome t tracks y = .hold) ∧
  (∀ s : State, takeHold s s.out.hold = s ∧ takeHold s false = { s with out := { s.out with hold := false } }) ∧
  ∀ s : State,
    (s.out.marks = [] → settingsMarks s = s) ∧
    (s.out.marks ≠ [] → cancelled s (settingsMarks s) 1 ∧ (settingsMarks s).out = { s.out with marks := [] })

/-! ## The Set Store -/

/-- The run state (R152 to R155). Entry to HALTED, due in DRAINING when the Cut List is empty: the planner becomes IDLE
without a frontier, the Flaw Map and the Blind Stretch List are emptied, the run is HALTED, with its RUN_STATE notice and
RUN_CHANGE; the queue, the outputs, the sets, the lanes and the tracker go on. A waiting settings section, a set section
that waits for settings and the requested run then follow, in this order. Before, only the bytes it carries are stored
(log entries 2 and 5). Entry to RUNNING, with a run requested in HALTED, line settings and a Current set: the notice, the
initial stretches, then the planner, whose frontier stands a head margin beyond the commit limit, with the head cut
handed over without an owner. A HALT in RUNNING closes every open blob, ends the planning and drains, and with the Cut
List empty halts at once; one in HALTED or DRAINING changes nothing, and a RUN in DRAINING is held. -/
def Obligations.RunStartsAndHalts : Prop :=
  (∀ (s : State) (written : List Host.Cell), s.sst.run = .draining → s.out.cuts = [] →
    let r : State := { s with mem := s.mem.storeCells written }
    ∃ b, exec (.enterHalted written) s = .next (testRun (actOnWaitingSet (actOnWaitingSettings b) .noSettings)) ∧
      (s.sst.waitingSettings = none → (∀ w, s.sst.waitingSet ≠ some (w, .noSettings)) → s.sst.requested = false →
        exec (.enterHalted written) s = .next b) ∧
      b.sst = { s.sst with run := .halted } ∧ b.cpl = { s.cpl with state := .idle, frontier := none, step := none } ∧
      b.fas = { s.fas with map := [] } ∧ b.cov.list = [] ∧ b.cov.serial = s.cov.serial ∧
      (∀ oc, b.cov.causeState oc = CauseState.empty) ∧ b.cov.boundary = none ∧ b.xch.attn &&& 0x40#8 ≠ 0 ∧
      Noticed r b .runState false [(0, le 1 s.sst.run.code), (1, le 1 0), (0x8, lePos (some s.rtk.gantry.toNat)),
        (0x10, lePos (some (closedPosition b)))] ∧
      b.timeBase = s.timeBase ∧ b.rtk = s.rtk ∧ b.laneMask = s.laneMask ∧ b.lanes = s.lanes ∧ b.out = s.out ∧
      ReportFrame r b) ∧
  (∀ (s : State) (written : List Host.Cell), s.sst.run ≠ .draining ∨ s.out.cuts ≠ [] →
    exec (.enterHalted written) s = .next { s with mem := s.mem.storeCells written }) ∧
  (∀ (s : State) (l : LineSettings), s.sst.run = .halted → s.sst.requested = true → s.sst.settings = some l →
    s.sst.current.isSome = true →
    let t := testRun s
    let started := changeRun s .running
    let f : Pos := (s.rtk.gantry.toNat : Int) - l.cutterDistance + l.commitDistance + l.headMargin
    t = startPlanner (startCoverage started) ∧ started.xch.attn &&& 0x40#8 ≠ 0 ∧
      Noticed s started .runState false [(0, le 1 0), (1, le 1 1), (0x8, lePos (some s.rtk.gantry.toNat)),
        (0x10, lePos (some (closedPosition s)))] ∧
      t.sst = { s.sst with run := .running } ∧
      t.cpl = { s.cpl with state := .planning, frontier := some f } ∧
      CutHanded s t { position := f, owner := none, due := false, deferred := false } ∧
      t.xch.attn &&& 0x40#8 ≠ 0 ∧ t.rtk = s.rtk ∧ t.lanes = s.lanes ∧ t.fas = s.fas ∧ t.laneMask = s.laneMask ∧
      t.timeBase = s.timeBase ∧ ReportFrame s t) ∧
  (∀ s : State, s.sst.run ≠ .halted ∨ s.sst.requested = false ∨ s.sst.settings = none ∨ s.sst.current = none →
    testRun s = s) ∧
  ∀ (s : State) (edit : BitVec 32),
    let asked (run : Bool) : State :=
      { s with sst := { s.sst with requested := run },
               xch := { s.xch with
                 edits := s.xch.edits.set RequestSection.run.index
                   { s.xch.edits[RequestSection.run.index] with accepted := edit } } }
    (s.sst.run ≠ .running → passRun s edit false = asked false) ∧
    (s.sst.run ≠ .halted → passRun s edit true = asked true) ∧
    (s.sst.run = .halted → passRun s edit true = testRun (asked true)) ∧
    (s.sst.run = .running →
      let t := passRun s edit false
      t.sst.requested = false ∧ (∀ i, openBlobs t i = []) ∧ t.cpl.step = none ∧ t.cpl.amendments = [] ∧
        t.out.cuts = s.out.cuts ∧ t.xch.attn &&& 0x40#8 ≠ 0 ∧ t.timeBase = s.timeBase ∧ t.laneMask = s.laneMask ∧
        (s.out.cuts ≠ [] → t.sst.run = .draining ∧ t.cpl.state = .draining ∧ t.cpl.frontier = s.cpl.frontier ∧
          t.cpl.queue = s.cpl.queue ∧ t.cpl.runouts = s.cpl.runouts ∧ t.rtk = s.rtk ∧ t.lanes = s.lanes) ∧
        (s.out.cuts = [] → s.sst.waitingSettings = none → (∀ w, s.sst.waitingSet ≠ some (w, .noSettings)) →
          t.sst.run = .halted ∧ t.cpl.state = .idle ∧ t.cpl.frontier = none ∧ t.cpl.queue = s.cpl.queue ∧
          t.fas.map = [] ∧ t.cov.list = []))

/-- What the checks of R145 and R148 leave to be relied on. Accepted line settings have every fitted lane's geometry in
range, the distances ordered, the cullet lengths and thresholds ordered, and every journal of an admitted capacity,
aligned, clear of the fixed blocks, inside the memory and apart from the others. An accepted set has one to four tracks
in order and apart, ordered point limits, rising rows and an order book within its bounds. -/
def Obligations.AcceptedImagesAreSound : Prop :=
  (∀ (m : ExchangeMemory) (image : Nat),
    let l := (readSettings m image).value
    checkSettings l = none →
    (∀ i : LaneId, l.lanes[i].fitted = true → 1024 ≤ l.lanes[i].pixels ∧ l.lanes[i].pixels ≤ 8192 ∧
      (l.lanes[i].direction = 1 ∨ l.lanes[i].direction = -1) ∧ l.lanes[i].origin + l.lanes[i].pixels ≤ 65536) ∧
      l.lanes[l.driveLane].fitted = true ∧ l.lanes[l.operatorLane].fitted = true ∧
      l.markerDistance < l.cutterDistance ∧ l.commitDistance < l.cutterDistance ∧
      l.urgencyMargin ≤ l.culletMin ∧ l.culletMin ≤ l.culletMax ∧ l.recoverThreshold < l.errorThreshold ∧
      1 ≤ l.pitch ∧ l.pitch ≤ 8 ∧ 100 ≤ l.gateLength ∧ l.gateLength ≤ 60000 ∧ 1000 ≤ l.culletMin ∧
      l.cutterDelay ≤ 2000 ∧ l.markerDelay ≤ 2000 ∧ 1 ≤ l.pollInterval ∧ l.pollInterval ≤ 100 ∧
      (∀ q ∈ l.places, q.1.capacity ∈ journalCapacities ∧ q.1.base % q.2 = 0 ∧ 0x2000 ≤ q.1.base ∧
        q.1.base + q.1.capacity * q.2 ≤ 0x10000000 ∧ 1 ≤ q.1.level ∧ q.1.level ≤ q.1.capacity) ∧
      l.places.Pairwise fun a b =>
        a.1.base + a.1.capacity * a.2 ≤ b.1.base ∨ b.1.base + b.1.capacity * b.2 ≤ a.1.base) ∧
    ∀ (l : LineSettings) (m : ExchangeMemory) (image : Nat),
      let r := readSet m image
      checkSet l r = none →
      1 ≤ r.set.tracks.length ∧ r.set.tracks.length ≤ 4 ∧ (∀ t ∈ r.set.tracks, t.lo < t.hi ∧ t.hi ≤ 65536) ∧
        r.set.tracks.Pairwise (fun a b => a.hi ≤ b.lo) ∧ r.set.rules.length ≤ 16 ∧
        (∀ c ∈ r.set.rules, 1 ≤ c.flawClass ∧ c.flawClass ≤ 15) ∧
        (∀ n : Fin 16, r.set.rows[n].base ≤ r.set.rows[n].peak ∧ r.set.rows[n].peak ≤ 4095 ∧
          r.set.rows[n].edgeWeight ≤ 64 ∧ r.set.rows[n].rampCode ≤ 15) ∧
        r.set.pointsA ≤ r.set.pointsB ∧ r.set.pointsB ≤ r.set.pointsC ∧ r.set.pointsC ≤ 65535 ∧
        r.set.orders.length ≤ 16 ∧
        (∀ o ∈ r.set.orders, l.culletMin ≤ o.length ∧ o.length ≤ 70000 ∧ o.grade.rank ≤ 3 ∧ 1 ≤ o.value ∧ o.value ≤ 255) ∧
        r.set.closeGap * l.pitch ≤ r.set.splitLength

/-- A product set section (R147): without line settings it waits for them, while Next is held it waits for the taking of
Next, in place of any that waited, and else it is acted on at once. An accepted set (R149) takes the acceptance serial
and its quantities; it becomes Current when there is none, and otherwise Next, effective from the later of the position
given and the closed position, its boundary passed at once when that is the closed one in a run. The set in force at a
position (R150). The taking of Next (R151): Next becomes Current with its serial and its book, it stays in force wherever
it was, and the rest of the part is left alone but for the notice and the event. -/
def Obligations.SetsAreAcceptedAndTaken : Prop :=
  (∀ (s : State) (w : WaitingSection),
    (s.sst.settings = none → passSet s w = { s with sst := { s.sst with waitingSet := some (w, .noSettings) } }) ∧
    ∀ l, s.sst.settings = some l →
      (s.sst.next.isSome = true → passSet s w = { s with sst := { s.sst with waitingSet := some (w, .nextFull) } }) ∧
      (s.sst.next = none →
        let cleared : State := { s with sst := { s.sst with waitingSet := none } }
        let r := readSet s.mem w.offset
        (setPlaced s.mem w.offset = true → checkSet l r = none → passSet s w = acceptSet cleared w.edit r) ∧
        (setPlaced s.mem w.offset = false ∨ checkSet l r ≠ none →
          let t := passSet s w
          t = { cleared with tly := t.tly, xch := t.xch, mem := t.mem } ∧ t.xch.edits = s.xch.edits ∧
            t.xch.lastFault = 10 ∧
            (s.xch.notice.roomFor 1 = true → t.xch.notice.writeCount = s.xch.notice.writeCount + 1)))) ∧
  (∀ (s : State) (edit : BitVec 32) (r : RawSet),
    let t := acceptSet s edit r
    let held : HeldSet := { set := r.set, serial := s.sst.serial,
                            book := r.set.orders.map fun o => { line := o, lastSet := o.quantity, remaining := o.quantity } }
    t.xch.edits[RequestSection.productSet.index].accepted = edit ∧
    (s.sst.current = none →
      t.sst.current = some held ∧ t.sst.next = s.sst.next ∧ t.sst.serial = nextSerial s.sst.serial ∧
        (s.sst.requested = false ∨ s.sst.run ≠ .halted ∨ s.sst.settings = none →
          t.sst = { s.sst with current := some held, serial := nextSerial s.sst.serial } ∧ t.cov = s.cov ∧
            t.cpl = s.cpl ∧ t.rtk = s.rtk ∧ t.lanes = s.lanes ∧ t.fas = s.fas ∧ t.out = s.out) ∧
        (s.sst.requested = true → s.sst.run = .halted → s.sst.settings.isSome = true → t.sst.run = .running)) ∧
    (s.sst.current.isSome = true →
      let effective : Pos := max (r.set.given : Int) (closedPosition s)
      t.sst = { s.sst with next := some { held := held, effective := effective }, serial := nextSerial s.sst.serial } ∧
        t.cpl = s.cpl ∧ t.rtk = s.rtk ∧ t.lanes = s.lanes ∧ t.fas = s.fas ∧ t.out = s.out ∧
        (s.sst.run = .halted ∨ closedPosition s < r.set.given → t.cov = s.cov) ∧
        (s.sst.run ≠ .halted → s.cov.boundary = none → r.set.given ≤ closedPosition s →
          t.cov.boundary = some effective))) ∧
  (∀ (s : State) (y : Pos),
    (s.sst.current = none → setAt s y = none) ∧
      (∀ c, s.sst.current = some c →
        (s.sst.next = none → setAt s y = some c) ∧
          ∀ n, s.sst.next = some n → setAt s y = if n.effective ≤ y then some n.held else some c)) ∧
    ∀ (s : State) (old : HeldSet) (n : NextSet), s.sst.current = some old → s.sst.next = some n →
      let t := takeNext s
      t.sst.current = some n.held ∧
      (∀ w, s.sst.waitingSet = some (w, .nextFull) → s.sst.settings.isSome = true → t.sst.waitingSet = none) ∧
      ((∀ w, s.sst.waitingSet ≠ some (w, .nextFull)) →
        t.sst = { s.sst with current := some n.held, next := none } ∧ t.cov = { s.cov with boundary := none } ∧
        (∀ y, setAt t y = some n.held) ∧ (∀ y, n.effective ≤ y → setAt t y = setAt s y) ∧
        t.rtk = s.rtk ∧ t.lanes = s.lanes ∧ t.fas = s.fas ∧ t.cpl = s.cpl ∧ t.out = s.out ∧ t.laneMask = s.laneMask ∧
        t.timeBase = s.timeBase ∧ ReportFrame s t)

/-! ## The exchange memory -/

/-- A read count (R172): one that has not changed does nothing; one that leaves no more than the capacity unread is taken;
any other is a bad read count, which keeps the copy, latches FAULT and sets the flag and the last fault code. A record
(R173, R175, R177): where its journal has a slot for it, it is written whole to the slot of its count, the write count
rises by 1 here and in the Mark Block, the level cause is latched while the unread count is at the level, and every other
byte stays. A notice that finds no room is withheld and changes no byte. -/
def Obligations.JournalsTakeAndWrite : Prop :=
  (∀ (s : State) (id : JournalId),
    let value := requestReadCount s.mem id
    let j := s.xch.journal id
    let t := takeReadCount s id
    (value = j.lastRead → t = s) ∧
      (value ≠ j.lastRead → j.place = none → t = { s with xch := s.xch.setJournal id { j with lastRead := value } }) ∧
      ∀ p, value ≠ j.lastRead → j.place = some p →
        (t.xch.journal id).lastRead = value ∧
          ((j.writeCount - value).toNat ≤ p.capacity →
            (t.xch.journal id).readCopy = value ∧ (t.xch.journal id).badRead = false ∧
              (id = .flaw →
                t = { s with xch := s.xch.setJournal id { j with lastRead := value, readCopy := value, badRead := false } })) ∧
          (p.capacity < (j.writeCount - value).toNat →
            (t.xch.journal id).readCopy = j.readCopy ∧ (t.xch.journal id).badRead = true ∧ t.xch.attn &&& 0x80#8 ≠ 0 ∧
              t.xch.lastFault = 17 ∧ (id ≠ .notice → (t.xch.journal id).writeCount = j.writeCount))) ∧
  (∀ (s : State) (id : JournalId) (p : JournalPlace) (record : List Byte), s.mem.wf = true →
    (s.xch.journal id).place = some p → 0 < p.capacity → Config.fixedEnd ≤ p.base →
    p.base + p.capacity * id.recordSize ≤ Config.windowSize → record.length = id.recordSize →
    let j := s.xch.journal id
    let slot := p.base + j.writeCount.toNat % p.capacity * id.recordSize
    let t := writeRecords s id [record]
    t.mem.readBytes slot id.recordSize = record ∧
      (t.xch.journal id) = { j with writeCount := j.writeCount + 1 } ∧
      t.mem.readLe id.writeCountAddress 4 = (j.writeCount + 1).toNat ∧
      (∀ a, (a < slot ∨ slot + id.recordSize ≤ a) → (a < id.writeCountAddress ∨ id.writeCountAddress + 4 ≤ a) →
        t.mem.read a = s.mem.read a) ∧
      (p.level ≤ (j.writeCount + 1 - j.readCopy).toNat → t.xch.attn = s.xch.attn ||| id.levelCause.bit) ∧
      ((j.writeCount + 1 - j.readCopy).toNat < p.level → t.xch.attn = s.xch.attn)) ∧
    ∀ (s : State) (kind : NoticeKind) (urgent : Bool) (body : List (Nat × List Byte)), s.xch.notice.roomFor 1 = false →
      let t := notifyWith s kind urgent body
      t.mem = s.mem ∧ t.xch.notice = { s.xch.notice with withheld := s.xch.notice.withheld + 1 } ∧
        (urgent = true → t.xch.attn &&& 0x80#8 ≠ 0 ∧ t.xch.lastFault.toNat = kind.code) ∧
        (urgent = false → t.xch.lastFault = s.xch.lastFault)

/-- The part writes no byte but its own (R168): but for the bytes the computer stores, a command, and a step on an empty
queue, change no byte outside the Mark Block and the slots of the journals placed before it or by it. POWER_ON, after
which the contents are undefined, is apart. -/
def Obligations.OnlyItsOwnBytes : Prop :=
  (∀ (c : Instr) (s t : State), exec c s = .next t → c ≠ .powerOn →
    ∀ a, ¬ s.owns a → ¬ t.owns a → (∀ w ∈ c.written, w.1 ≠ a) → t.mem.read a = s.mem.read a) ∧
    ∀ s t : State, s.pending = [] → StepsTo s t → ∀ a, ¬ s.owns a → ¬ t.owns a → t.mem.read a = s.mem.read a

/-! ## Invariants of every step -/

/-- Every step keeps the exchange memory in its canonical form and keeps every journal from holding more unread records
than its capacity (R173), a capacity that R145 admits: a power of two from 16 to
65,536. -/
def Obligations.MemoryAndJournalsStaySound : Prop :=
  Invariant (fun s => s.mem.wf = true) ∧
    Invariant fun s => ∀ id, (s.xch.journal id).bounded

/-- Every step keeps the flaw, stretch, segment and acceptance serials from 0 (R57, R71, R121, R149), the Flaw Map, the
Blind Stretch List and the Mark List within their capacities (R60, R72, R136), each stretch with its own order of entry,
and the strobe and nozzle outputs as their states say (R132, R134, R139). -/
def Obligations.BlocksStaySound : Prop :=
  Invariant fun s => s.fas.Sound ∧ s.cov.Sound ∧ s.out.Sound ∧ s.cpl.serial ≠ 0 ∧ s.sst.serial ≠ 0

/-- Every step keeps the planner in the state that the run state asks for (R104, R105, R127, R133): IDLE without a frontier
or a cut in HALTED, PLANNING or RUNOUT in RUNNING, DRAINING in DRAINING; with the Segment Queue and the Cut List within
their capacities (R121, R130), the cuts in strictly increasing position and none beyond the frontier (R122, R130), and a
plan step in progress only in RUNNING, with room for what it will enter (R108, R109). -/
def Obligations.PlannerFollowsTheRun : Prop :=
  Invariant PlannerFollows

/-- The state after power-on has every invariant that the other statements show to be kept. -/
def Obligations.ResetHasTheInvariants : Prop :=
  LineFollows State.reset ∧ State.reset.mem.wf = true ∧ (∀ id, (State.reset.xch.journal id).bounded) ∧
    State.reset.fas.Sound ∧ State.reset.cov.Sound ∧ State.reset.out.Sound ∧ State.reset.cpl.serial ≠ 0 ∧
    State.reset.sst.serial ≠ 0 ∧ PlannerFollows State.reset ∧
    EdgeCountersSee State.reset
end

