-- ==== Sys2Proof/Laws/Memory.lean ====
section
/-! SUPPORT. The laws of the exchange memory: what a read finds after a write, and that every write keeps the canonical
form. -/
namespace Sys2Proof.Machine

/-! ## Reading after writing -/

theorem lookupCell_putCell_same (plain : Byte) (a : Nat) (v : Byte) :
    ∀ l : List Host.Cell, ∀ floor : Nat, risingFrom floor l = true →
      (lookupCell (putCell plain l a v) a).getD plain = v := by
  intro l
  induction l with
  | nil => intro _ _; by_cases h : v = plain <;> simp [putCell, lookupCell, h]
  | cons c rest ih =>
    intro floor hr
    simp only [risingFrom, Bool.and_eq_true, decide_eq_true_eq] at hr
    have absent : ∀ (r : List Host.Cell) (f : Nat), risingFrom f r = true → a < f → lookupCell r a = none := by
      intro r
      induction r with
      | nil => intros; rfl
      | cons d r ihr =>
        intro f hf haf
        simp only [risingFrom, Bool.and_eq_true, decide_eq_true_eq] at hf
        simp only [lookupCell, if_neg (by omega : ¬ d.1 = a)]
        exact ihr _ hf.2 (by omega)
    simp only [putCell]
    split
    · by_cases h : v = plain
      · simp only [h, if_true, lookupCell, if_neg (by omega : ¬ c.1 = a), absent _ _ hr.2 (by omega), Option.getD_none]
      · simp [h, lookupCell]
    · split
      · next h1 h2 =>
        by_cases h : v = plain
        · simp [h, absent _ _ hr.2 (by omega)]
        · simp [h, lookupCell]
      · next h1 h2 => simpa [lookupCell, h2] using ih _ hr.2

theorem lookupCell_putCell_other (plain : Byte) {a b : Nat} (v : Byte) (h : b ≠ a) :
    ∀ l : List Host.Cell, lookupCell (putCell plain l a v) b = lookupCell l b := by
  intro l
  induction l with
  | nil => by_cases hv : v = plain <;> simp [putCell, lookupCell, hv, Ne.symm h]
  | cons c rest ih =>
    simp only [putCell]
    split
    · by_cases hv : v = plain <;> simp [hv, lookupCell, Ne.symm h]
    · split
      · next _ h2 => by_cases hv : v = plain <;> simp [hv, lookupCell, Ne.symm h, h2]
      · simp [lookupCell, ih]

/-- A read after a write of the same byte gives the value written. -/
theorem ExchangeMemory.read_write_same (m : ExchangeMemory) (hm : m.wf = true) {a : Nat} (v : Byte)
    (ha : a < Config.windowSize) : (m.write a v).read a = v := by
  have hr : risingFrom 0 m.cells = true := by
    simp only [ExchangeMemory.wf, Bool.and_eq_true] at hm; exact hm.1
  simp only [ExchangeMemory.write, if_pos ha, ExchangeMemory.read, ExchangeMemory.unlisted]
  exact lookupCell_putCell_same _ a v m.cells 0 hr

/-- A write leaves every other byte alone. -/
theorem ExchangeMemory.read_write_other (m : ExchangeMemory) {a b : Nat} (v : Byte) (h : b ≠ a) :
    (m.write a v).read b = m.read b := by
  simp only [ExchangeMemory.write]
  split
  · simp [ExchangeMemory.read, ExchangeMemory.unlisted, lookupCell_putCell_other _ v h]
  · rfl

/-- Writing bytes leaves every byte outside them alone. -/
theorem ExchangeMemory.read_writeBytes_other {b : Nat} :
    ∀ (bytes : List Byte) (m : ExchangeMemory) (a : Nat), (b < a ∨ a + bytes.length ≤ b) →
      (m.writeBytes a bytes).read b = m.read b := by
  intro bytes
  induction bytes with
  | nil => intros; rfl
  | cons v rest ih =>
    intro m a h
    simp only [List.length_cons] at h
    simp only [ExchangeMemory.writeBytes]
    rw [ih _ _ (by omega), ExchangeMemory.read_write_other _ _ (by omega)]

/-- A write never changes the power-on the memory counts from. -/
@[simp] theorem ExchangeMemory.write_generation (m : ExchangeMemory) (a : Nat) (v : Byte) :
    (m.write a v).generation = m.generation := by
  simp only [ExchangeMemory.write]; split <;> rfl

/-! ## The canonical form -/

theorem risingFrom_putCell (plain : Byte) (a : Nat) (v : Byte) :
    ∀ (l : List Host.Cell) (floor : Nat), floor ≤ a → risingFrom floor l = true →
      risingFrom floor (putCell plain l a v) = true := by
  intro l
  induction l with
  | nil => intro floor hf _; by_cases h : v = plain <;> simp [putCell, h, risingFrom, hf]
  | cons c rest ih =>
    intro floor hf hr
    have hr' := hr
    simp only [risingFrom, Bool.and_eq_true, decide_eq_true_eq] at hr'
    have lower : ∀ (r : List Host.Cell) (f g : Nat), g ≤ f → risingFrom f r = true → risingFrom g r = true := by
      intro r f g hg h
      cases r with
      | nil => rfl
      | cons d r =>
        simp only [risingFrom, Bool.and_eq_true, decide_eq_true_eq] at h ⊢
        exact ⟨by omega, h.2⟩
    simp only [putCell]
    split
    · next h1 =>
      by_cases h : v = plain
      · simpa [h] using hr
      · simp only [h, if_false, risingFrom, Bool.and_eq_true, decide_eq_true_eq]
        exact ⟨hf, by omega, hr'.2⟩
    · split
      · next h1 h2 =>
        by_cases h : v = plain
        · simpa [h] using lower _ _ _ (by omega) hr'.2
        · simp only [h, if_false, risingFrom, Bool.and_eq_true, decide_eq_true_eq]
          exact ⟨hf, by rw [← h2]; exact hr'.2⟩
      · next h1 h2 =>
        simp only [risingFrom, Bool.and_eq_true, decide_eq_true_eq]
        exact ⟨hr'.1, ih _ (by omega) hr'.2⟩

theorem putCell_all {p : Host.Cell → Bool} {plain v : Byte} {a : Nat} (hp : v ≠ plain → p (a, v) = true) :
    ∀ l : List Host.Cell, l.all p = true → (putCell plain l a v).all p = true := by
  intro l
  induction l with
  | nil => intro _; by_cases h : v = plain <;> simp [putCell, h]; exact hp h
  | cons c rest ih =>
    intro hl
    simp only [List.all_cons, Bool.and_eq_true] at hl
    simp only [putCell]
    split
    · by_cases h : v = plain
      · simp [h, hl.1, hl.2]
      · simp only [h, if_false, List.all_cons, Bool.and_eq_true]; exact ⟨hp h, hl.1, hl.2⟩
    · split
      · by_cases h : v = plain
        · simp [h, hl.2]
        · simp only [h, if_false, List.all_cons, Bool.and_eq_true]; exact ⟨hp h, hl.2⟩
      · simp only [List.all_cons, Bool.and_eq_true]; exact ⟨hl.1, ih hl.2⟩

/-- A write keeps the canonical form. -/
theorem ExchangeMemory.write_wf (m : ExchangeMemory) (hm : m.wf = true) (a : Nat) (v : Byte) : (m.write a v).wf = true := by
  simp only [ExchangeMemory.write]
  split
  · next ha =>
    simp only [ExchangeMemory.wf, Bool.and_eq_true] at hm ⊢
    exact ⟨risingFrom_putCell _ a v _ 0 (Nat.zero_le a) hm.1,
      putCell_all (p := fun c => decide (c.1 < Config.windowSize) && decide (c.2 ≠ m.unlisted c.1))
        (fun h => by simpa using And.intro ha h) _ hm.2⟩
  · exact hm

/-- Writing bytes keeps the canonical form. -/
theorem ExchangeMemory.writeBytes_wf :
    ∀ (bytes : List Byte) (m : ExchangeMemory) (a : Nat), m.wf = true → (m.writeBytes a bytes).wf = true := by
  intro bytes
  induction bytes with
  | nil => intro m a hm; exact hm
  | cons v rest ih => intro m a hm; exact ih _ _ (m.write_wf hm a v)

/-- What the computer stores keeps the canonical form. -/
theorem ExchangeMemory.storeCells_wf :
    ∀ (cells : List Host.Cell) (m : ExchangeMemory), m.wf = true → (m.storeCells cells).wf = true := by
  intro cells
  induction cells with
  | nil => intro m hm; exact hm
  | cons c rest ih => intro m hm; exact ih _ (m.write_wf hm c.1 c.2)

/-- Writing records to a journal's slots keeps the canonical form. -/
theorem ExchangeMemory.writeSlots_wf (p : JournalPlace) (size : Nat) :
    ∀ (records : List (List Byte)) (m : ExchangeMemory) (count : BitVec 32), m.wf = true →
      (m.writeSlots p size count records).wf = true := by
  intro records
  induction records with
  | nil => intro m count hm; exact hm
  | cons r rest ih => intro m count hm; exact ih _ _ (ExchangeMemory.writeBytes_wf r m _ hm)

/-- Bytes written are the bytes read back, where they lie in the window. -/
theorem ExchangeMemory.read_writeBytes_same :
    ∀ (bytes : List Byte) (m : ExchangeMemory) (a i : Nat) (v : Byte), m.wf = true →
      a + bytes.length ≤ Config.windowSize → bytes[i]? = some v → (m.writeBytes a bytes).read (a + i) = v := by
  intro bytes
  induction bytes with
  | nil => intro m a i v _ _ h; simp at h
  | cons b rest ih =>
    intro m a i v hm hw h
    simp only [List.length_cons] at hw
    simp only [ExchangeMemory.writeBytes]
    cases i with
    | zero =>
      simp only [List.getElem?_cons_zero, Option.some.injEq] at h
      rw [ExchangeMemory.read_writeBytes_other _ _ _ (by omega), Nat.add_zero, ← h]
      exact m.read_write_same hm b (by omega)
    | succ i =>
      simp only [List.getElem?_cons_succ] at h
      have := ih (m.write a b) (a + 1) i v (m.write_wf hm a b) (by omega) h
      rwa [show a + 1 + i = a + (i + 1) by omega] at this

/-- Fields put in a block never shorten it. -/
theorem placeBytes_length (block : List Byte) (offset : Nat) (bytes : List Byte) :
    block.length ≤ (placeBytes block offset bytes).length := by
  simp only [placeBytes, List.length_append, List.length_take, List.length_drop]
  omega

/-- A block or record has its size (R184). -/
@[simp] theorem layout_length (size : Nat) (fields : List (Nat × List Byte)) : (layout size fields).length = size := by
  have grow : ∀ (l : List (Nat × List Byte)) (b : List Byte),
      b.length ≤ (l.foldl (fun block f => placeBytes block f.1 f.2) b).length := by
    intro l
    induction l with
    | nil => simp
    | cons f rest ih => exact fun b => Nat.le_trans (placeBytes_length b f.1 f.2) (ih _)
  have := grow fields (List.replicate size 0)
  simp only [List.length_replicate] at this
  simp only [layout, List.length_take]
  omega

/-- The `n` bytes read from an address are those of the single addresses. -/
theorem ExchangeMemory.readBytes_length (m : ExchangeMemory) (n : Nat) : ∀ a, (m.readBytes a n).length = n := by
  induction n with
  | zero => simp [ExchangeMemory.readBytes]
  | succ n ih => simp [ExchangeMemory.readBytes, ih]

end Sys2Proof.Machine
end

