-- ==== Sys2Proof/Laws/State.lean ====
section
/-! SUPPORT. One lemma for each field of State under each update of a block. -/
namespace Sys2Proof.Machine

/-! ## `setTime` -/

@[simp] theorem State.setTime_pending (s : State) (v : Micros) : (s.setTime v).pending = s.pending := rfl
@[simp] theorem State.setTime_timeBase (s : State) (v : Micros) : (s.setTime v).timeBase = v := rfl
@[simp] theorem State.setTime_rtk (s : State) (v : Micros) : (s.setTime v).rtk = s.rtk := rfl
@[simp] theorem State.setTime_laneMask (s : State) (v : Micros) : (s.setTime v).laneMask = s.laneMask := rfl
@[simp] theorem State.setTime_lanes (s : State) (v : Micros) : (s.setTime v).lanes = s.lanes := rfl
@[simp] theorem State.setTime_fas (s : State) (v : Micros) : (s.setTime v).fas = s.fas := rfl
@[simp] theorem State.setTime_cov (s : State) (v : Micros) : (s.setTime v).cov = s.cov := rfl
@[simp] theorem State.setTime_cpl (s : State) (v : Micros) : (s.setTime v).cpl = s.cpl := rfl
@[simp] theorem State.setTime_out (s : State) (v : Micros) : (s.setTime v).out = s.out := rfl
@[simp] theorem State.setTime_tly (s : State) (v : Micros) : (s.setTime v).tly = s.tly := rfl
@[simp] theorem State.setTime_sst (s : State) (v : Micros) : (s.setTime v).sst = s.sst := rfl
@[simp] theorem State.setTime_xch (s : State) (v : Micros) : (s.setTime v).xch = s.xch := rfl
@[simp] theorem State.setTime_mem (s : State) (v : Micros) : (s.setTime v).mem = s.mem := rfl

/-! ## `setRtk` -/

@[simp] theorem State.setRtk_pending (s : State) (v : Tracker) : (s.setRtk v).pending = s.pending := rfl
@[simp] theorem State.setRtk_timeBase (s : State) (v : Tracker) : (s.setRtk v).timeBase = s.timeBase := rfl
@[simp] theorem State.setRtk_rtk (s : State) (v : Tracker) : (s.setRtk v).rtk = v := rfl
@[simp] theorem State.setRtk_laneMask (s : State) (v : Tracker) : (s.setRtk v).laneMask = s.laneMask := rfl
@[simp] theorem State.setRtk_lanes (s : State) (v : Tracker) : (s.setRtk v).lanes = s.lanes := rfl
@[simp] theorem State.setRtk_fas (s : State) (v : Tracker) : (s.setRtk v).fas = s.fas := rfl
@[simp] theorem State.setRtk_cov (s : State) (v : Tracker) : (s.setRtk v).cov = s.cov := rfl
@[simp] theorem State.setRtk_cpl (s : State) (v : Tracker) : (s.setRtk v).cpl = s.cpl := rfl
@[simp] theorem State.setRtk_out (s : State) (v : Tracker) : (s.setRtk v).out = s.out := rfl
@[simp] theorem State.setRtk_tly (s : State) (v : Tracker) : (s.setRtk v).tly = s.tly := rfl
@[simp] theorem State.setRtk_sst (s : State) (v : Tracker) : (s.setRtk v).sst = s.sst := rfl
@[simp] theorem State.setRtk_xch (s : State) (v : Tracker) : (s.setRtk v).xch = s.xch := rfl
@[simp] theorem State.setRtk_mem (s : State) (v : Tracker) : (s.setRtk v).mem = s.mem := rfl

/-! ## `setLaneMask` -/

@[simp] theorem State.setLaneMask_pending (s : State) (v : BitVec 12) : (s.setLaneMask v).pending = s.pending := rfl
@[simp] theorem State.setLaneMask_timeBase (s : State) (v : BitVec 12) : (s.setLaneMask v).timeBase = s.timeBase := rfl
@[simp] theorem State.setLaneMask_rtk (s : State) (v : BitVec 12) : (s.setLaneMask v).rtk = s.rtk := rfl
@[simp] theorem State.setLaneMask_laneMask (s : State) (v : BitVec 12) : (s.setLaneMask v).laneMask = v := rfl
@[simp] theorem State.setLaneMask_lanes (s : State) (v : BitVec 12) : (s.setLaneMask v).lanes = s.lanes := rfl
@[simp] theorem State.setLaneMask_fas (s : State) (v : BitVec 12) : (s.setLaneMask v).fas = s.fas := rfl
@[simp] theorem State.setLaneMask_cov (s : State) (v : BitVec 12) : (s.setLaneMask v).cov = s.cov := rfl
@[simp] theorem State.setLaneMask_cpl (s : State) (v : BitVec 12) : (s.setLaneMask v).cpl = s.cpl := rfl
@[simp] theorem State.setLaneMask_out (s : State) (v : BitVec 12) : (s.setLaneMask v).out = s.out := rfl
@[simp] theorem State.setLaneMask_tly (s : State) (v : BitVec 12) : (s.setLaneMask v).tly = s.tly := rfl
@[simp] theorem State.setLaneMask_sst (s : State) (v : BitVec 12) : (s.setLaneMask v).sst = s.sst := rfl
@[simp] theorem State.setLaneMask_xch (s : State) (v : BitVec 12) : (s.setLaneMask v).xch = s.xch := rfl
@[simp] theorem State.setLaneMask_mem (s : State) (v : BitVec 12) : (s.setLaneMask v).mem = s.mem := rfl

/-! ## `setLanes` -/

@[simp] theorem State.setLanes_pending (s : State) (v : Vector Lane 12) : (s.setLanes v).pending = s.pending := rfl
@[simp] theorem State.setLanes_timeBase (s : State) (v : Vector Lane 12) : (s.setLanes v).timeBase = s.timeBase := rfl
@[simp] theorem State.setLanes_rtk (s : State) (v : Vector Lane 12) : (s.setLanes v).rtk = s.rtk := rfl
@[simp] theorem State.setLanes_laneMask (s : State) (v : Vector Lane 12) : (s.setLanes v).laneMask = s.laneMask := rfl
@[simp] theorem State.setLanes_lanes (s : State) (v : Vector Lane 12) : (s.setLanes v).lanes = v := rfl
@[simp] theorem State.setLanes_fas (s : State) (v : Vector Lane 12) : (s.setLanes v).fas = s.fas := rfl
@[simp] theorem State.setLanes_cov (s : State) (v : Vector Lane 12) : (s.setLanes v).cov = s.cov := rfl
@[simp] theorem State.setLanes_cpl (s : State) (v : Vector Lane 12) : (s.setLanes v).cpl = s.cpl := rfl
@[simp] theorem State.setLanes_out (s : State) (v : Vector Lane 12) : (s.setLanes v).out = s.out := rfl
@[simp] theorem State.setLanes_tly (s : State) (v : Vector Lane 12) : (s.setLanes v).tly = s.tly := rfl
@[simp] theorem State.setLanes_sst (s : State) (v : Vector Lane 12) : (s.setLanes v).sst = s.sst := rfl
@[simp] theorem State.setLanes_xch (s : State) (v : Vector Lane 12) : (s.setLanes v).xch = s.xch := rfl
@[simp] theorem State.setLanes_mem (s : State) (v : Vector Lane 12) : (s.setLanes v).mem = s.mem := rfl

/-! ## `setFas` -/

@[simp] theorem State.setFas_pending (s : State) (v : Assembler) : (s.setFas v).pending = s.pending := rfl
@[simp] theorem State.setFas_timeBase (s : State) (v : Assembler) : (s.setFas v).timeBase = s.timeBase := rfl
@[simp] theorem State.setFas_rtk (s : State) (v : Assembler) : (s.setFas v).rtk = s.rtk := rfl
@[simp] theorem State.setFas_laneMask (s : State) (v : Assembler) : (s.setFas v).laneMask = s.laneMask := rfl
@[simp] theorem State.setFas_lanes (s : State) (v : Assembler) : (s.setFas v).lanes = s.lanes := rfl
@[simp] theorem State.setFas_fas (s : State) (v : Assembler) : (s.setFas v).fas = v := rfl
@[simp] theorem State.setFas_cov (s : State) (v : Assembler) : (s.setFas v).cov = s.cov := rfl
@[simp] theorem State.setFas_cpl (s : State) (v : Assembler) : (s.setFas v).cpl = s.cpl := rfl
@[simp] theorem State.setFas_out (s : State) (v : Assembler) : (s.setFas v).out = s.out := rfl
@[simp] theorem State.setFas_tly (s : State) (v : Assembler) : (s.setFas v).tly = s.tly := rfl
@[simp] theorem State.setFas_sst (s : State) (v : Assembler) : (s.setFas v).sst = s.sst := rfl
@[simp] theorem State.setFas_xch (s : State) (v : Assembler) : (s.setFas v).xch = s.xch := rfl
@[simp] theorem State.setFas_mem (s : State) (v : Assembler) : (s.setFas v).mem = s.mem := rfl

/-! ## `setCov` -/

@[simp] theorem State.setCov_pending (s : State) (v : Coverage) : (s.setCov v).pending = s.pending := rfl
@[simp] theorem State.setCov_timeBase (s : State) (v : Coverage) : (s.setCov v).timeBase = s.timeBase := rfl
@[simp] theorem State.setCov_rtk (s : State) (v : Coverage) : (s.setCov v).rtk = s.rtk := rfl
@[simp] theorem State.setCov_laneMask (s : State) (v : Coverage) : (s.setCov v).laneMask = s.laneMask := rfl
@[simp] theorem State.setCov_lanes (s : State) (v : Coverage) : (s.setCov v).lanes = s.lanes := rfl
@[simp] theorem State.setCov_fas (s : State) (v : Coverage) : (s.setCov v).fas = s.fas := rfl
@[simp] theorem State.setCov_cov (s : State) (v : Coverage) : (s.setCov v).cov = v := rfl
@[simp] theorem State.setCov_cpl (s : State) (v : Coverage) : (s.setCov v).cpl = s.cpl := rfl
@[simp] theorem State.setCov_out (s : State) (v : Coverage) : (s.setCov v).out = s.out := rfl
@[simp] theorem State.setCov_tly (s : State) (v : Coverage) : (s.setCov v).tly = s.tly := rfl
@[simp] theorem State.setCov_sst (s : State) (v : Coverage) : (s.setCov v).sst = s.sst := rfl
@[simp] theorem State.setCov_xch (s : State) (v : Coverage) : (s.setCov v).xch = s.xch := rfl
@[simp] theorem State.setCov_mem (s : State) (v : Coverage) : (s.setCov v).mem = s.mem := rfl

/-! ## `setCpl` -/

@[simp] theorem State.setCpl_pending (s : State) (v : Planner) : (s.setCpl v).pending = s.pending := rfl
@[simp] theorem State.setCpl_timeBase (s : State) (v : Planner) : (s.setCpl v).timeBase = s.timeBase := rfl
@[simp] theorem State.setCpl_rtk (s : State) (v : Planner) : (s.setCpl v).rtk = s.rtk := rfl
@[simp] theorem State.setCpl_laneMask (s : State) (v : Planner) : (s.setCpl v).laneMask = s.laneMask := rfl
@[simp] theorem State.setCpl_lanes (s : State) (v : Planner) : (s.setCpl v).lanes = s.lanes := rfl
@[simp] theorem State.setCpl_fas (s : State) (v : Planner) : (s.setCpl v).fas = s.fas := rfl
@[simp] theorem State.setCpl_cov (s : State) (v : Planner) : (s.setCpl v).cov = s.cov := rfl
@[simp] theorem State.setCpl_cpl (s : State) (v : Planner) : (s.setCpl v).cpl = v := rfl
@[simp] theorem State.setCpl_out (s : State) (v : Planner) : (s.setCpl v).out = s.out := rfl
@[simp] theorem State.setCpl_tly (s : State) (v : Planner) : (s.setCpl v).tly = s.tly := rfl
@[simp] theorem State.setCpl_sst (s : State) (v : Planner) : (s.setCpl v).sst = s.sst := rfl
@[simp] theorem State.setCpl_xch (s : State) (v : Planner) : (s.setCpl v).xch = s.xch := rfl
@[simp] theorem State.setCpl_mem (s : State) (v : Planner) : (s.setCpl v).mem = s.mem := rfl

/-! ## `setOut` -/

@[simp] theorem State.setOut_pending (s : State) (v : Outputs) : (s.setOut v).pending = s.pending := rfl
@[simp] theorem State.setOut_timeBase (s : State) (v : Outputs) : (s.setOut v).timeBase = s.timeBase := rfl
@[simp] theorem State.setOut_rtk (s : State) (v : Outputs) : (s.setOut v).rtk = s.rtk := rfl
@[simp] theorem State.setOut_laneMask (s : State) (v : Outputs) : (s.setOut v).laneMask = s.laneMask := rfl
@[simp] theorem State.setOut_lanes (s : State) (v : Outputs) : (s.setOut v).lanes = s.lanes := rfl
@[simp] theorem State.setOut_fas (s : State) (v : Outputs) : (s.setOut v).fas = s.fas := rfl
@[simp] theorem State.setOut_cov (s : State) (v : Outputs) : (s.setOut v).cov = s.cov := rfl
@[simp] theorem State.setOut_cpl (s : State) (v : Outputs) : (s.setOut v).cpl = s.cpl := rfl
@[simp] theorem State.setOut_out (s : State) (v : Outputs) : (s.setOut v).out = v := rfl
@[simp] theorem State.setOut_tly (s : State) (v : Outputs) : (s.setOut v).tly = s.tly := rfl
@[simp] theorem State.setOut_sst (s : State) (v : Outputs) : (s.setOut v).sst = s.sst := rfl
@[simp] theorem State.setOut_xch (s : State) (v : Outputs) : (s.setOut v).xch = s.xch := rfl
@[simp] theorem State.setOut_mem (s : State) (v : Outputs) : (s.setOut v).mem = s.mem := rfl

/-! ## `setTly` -/

@[simp] theorem State.setTly_pending (s : State) (v : Tallies) : (s.setTly v).pending = s.pending := rfl
@[simp] theorem State.setTly_timeBase (s : State) (v : Tallies) : (s.setTly v).timeBase = s.timeBase := rfl
@[simp] theorem State.setTly_rtk (s : State) (v : Tallies) : (s.setTly v).rtk = s.rtk := rfl
@[simp] theorem State.setTly_laneMask (s : State) (v : Tallies) : (s.setTly v).laneMask = s.laneMask := rfl
@[simp] theorem State.setTly_lanes (s : State) (v : Tallies) : (s.setTly v).lanes = s.lanes := rfl
@[simp] theorem State.setTly_fas (s : State) (v : Tallies) : (s.setTly v).fas = s.fas := rfl
@[simp] theorem State.setTly_cov (s : State) (v : Tallies) : (s.setTly v).cov = s.cov := rfl
@[simp] theorem State.setTly_cpl (s : State) (v : Tallies) : (s.setTly v).cpl = s.cpl := rfl
@[simp] theorem State.setTly_out (s : State) (v : Tallies) : (s.setTly v).out = s.out := rfl
@[simp] theorem State.setTly_tly (s : State) (v : Tallies) : (s.setTly v).tly = v := rfl
@[simp] theorem State.setTly_sst (s : State) (v : Tallies) : (s.setTly v).sst = s.sst := rfl
@[simp] theorem State.setTly_xch (s : State) (v : Tallies) : (s.setTly v).xch = s.xch := rfl
@[simp] theorem State.setTly_mem (s : State) (v : Tallies) : (s.setTly v).mem = s.mem := rfl

/-! ## `setSst` -/

@[simp] theorem State.setSst_pending (s : State) (v : Store) : (s.setSst v).pending = s.pending := rfl
@[simp] theorem State.setSst_timeBase (s : State) (v : Store) : (s.setSst v).timeBase = s.timeBase := rfl
@[simp] theorem State.setSst_rtk (s : State) (v : Store) : (s.setSst v).rtk = s.rtk := rfl
@[simp] theorem State.setSst_laneMask (s : State) (v : Store) : (s.setSst v).laneMask = s.laneMask := rfl
@[simp] theorem State.setSst_lanes (s : State) (v : Store) : (s.setSst v).lanes = s.lanes := rfl
@[simp] theorem State.setSst_fas (s : State) (v : Store) : (s.setSst v).fas = s.fas := rfl
@[simp] theorem State.setSst_cov (s : State) (v : Store) : (s.setSst v).cov = s.cov := rfl
@[simp] theorem State.setSst_cpl (s : State) (v : Store) : (s.setSst v).cpl = s.cpl := rfl
@[simp] theorem State.setSst_out (s : State) (v : Store) : (s.setSst v).out = s.out := rfl
@[simp] theorem State.setSst_tly (s : State) (v : Store) : (s.setSst v).tly = s.tly := rfl
@[simp] theorem State.setSst_sst (s : State) (v : Store) : (s.setSst v).sst = v := rfl
@[simp] theorem State.setSst_xch (s : State) (v : Store) : (s.setSst v).xch = s.xch := rfl
@[simp] theorem State.setSst_mem (s : State) (v : Store) : (s.setSst v).mem = s.mem := rfl

/-! ## `setXch` -/

@[simp] theorem State.setXch_pending (s : State) (v : Exchange) : (s.setXch v).pending = s.pending := rfl
@[simp] theorem State.setXch_timeBase (s : State) (v : Exchange) : (s.setXch v).timeBase = s.timeBase := rfl
@[simp] theorem State.setXch_rtk (s : State) (v : Exchange) : (s.setXch v).rtk = s.rtk := rfl
@[simp] theorem State.setXch_laneMask (s : State) (v : Exchange) : (s.setXch v).laneMask = s.laneMask := rfl
@[simp] theorem State.setXch_lanes (s : State) (v : Exchange) : (s.setXch v).lanes = s.lanes := rfl
@[simp] theorem State.setXch_fas (s : State) (v : Exchange) : (s.setXch v).fas = s.fas := rfl
@[simp] theorem State.setXch_cov (s : State) (v : Exchange) : (s.setXch v).cov = s.cov := rfl
@[simp] theorem State.setXch_cpl (s : State) (v : Exchange) : (s.setXch v).cpl = s.cpl := rfl
@[simp] theorem State.setXch_out (s : State) (v : Exchange) : (s.setXch v).out = s.out := rfl
@[simp] theorem State.setXch_tly (s : State) (v : Exchange) : (s.setXch v).tly = s.tly := rfl
@[simp] theorem State.setXch_sst (s : State) (v : Exchange) : (s.setXch v).sst = s.sst := rfl
@[simp] theorem State.setXch_xch (s : State) (v : Exchange) : (s.setXch v).xch = v := rfl
@[simp] theorem State.setXch_mem (s : State) (v : Exchange) : (s.setXch v).mem = s.mem := rfl

/-! ## `setMem` -/

@[simp] theorem State.setMem_pending (s : State) (v : ExchangeMemory) : (s.setMem v).pending = s.pending := rfl
@[simp] theorem State.setMem_timeBase (s : State) (v : ExchangeMemory) : (s.setMem v).timeBase = s.timeBase := rfl
@[simp] theorem State.setMem_rtk (s : State) (v : ExchangeMemory) : (s.setMem v).rtk = s.rtk := rfl
@[simp] theorem State.setMem_laneMask (s : State) (v : ExchangeMemory) : (s.setMem v).laneMask = s.laneMask := rfl
@[simp] theorem State.setMem_lanes (s : State) (v : ExchangeMemory) : (s.setMem v).lanes = s.lanes := rfl
@[simp] theorem State.setMem_fas (s : State) (v : ExchangeMemory) : (s.setMem v).fas = s.fas := rfl
@[simp] theorem State.setMem_cov (s : State) (v : ExchangeMemory) : (s.setMem v).cov = s.cov := rfl
@[simp] theorem State.setMem_cpl (s : State) (v : ExchangeMemory) : (s.setMem v).cpl = s.cpl := rfl
@[simp] theorem State.setMem_out (s : State) (v : ExchangeMemory) : (s.setMem v).out = s.out := rfl
@[simp] theorem State.setMem_tly (s : State) (v : ExchangeMemory) : (s.setMem v).tly = s.tly := rfl
@[simp] theorem State.setMem_sst (s : State) (v : ExchangeMemory) : (s.setMem v).sst = s.sst := rfl
@[simp] theorem State.setMem_xch (s : State) (v : ExchangeMemory) : (s.setMem v).xch = s.xch := rfl
@[simp] theorem State.setMem_mem (s : State) (v : ExchangeMemory) : (s.setMem v).mem = v := rfl

/-! ## `setPending` -/

@[simp] theorem State.setPending_pending (s : State) (v : List Instr) : (s.setPending v).pending = v := rfl
@[simp] theorem State.setPending_timeBase (s : State) (v : List Instr) : (s.setPending v).timeBase = s.timeBase := rfl
@[simp] theorem State.setPending_rtk (s : State) (v : List Instr) : (s.setPending v).rtk = s.rtk := rfl
@[simp] theorem State.setPending_laneMask (s : State) (v : List Instr) : (s.setPending v).laneMask = s.laneMask := rfl
@[simp] theorem State.setPending_lanes (s : State) (v : List Instr) : (s.setPending v).lanes = s.lanes := rfl
@[simp] theorem State.setPending_fas (s : State) (v : List Instr) : (s.setPending v).fas = s.fas := rfl
@[simp] theorem State.setPending_cov (s : State) (v : List Instr) : (s.setPending v).cov = s.cov := rfl
@[simp] theorem State.setPending_cpl (s : State) (v : List Instr) : (s.setPending v).cpl = s.cpl := rfl
@[simp] theorem State.setPending_out (s : State) (v : List Instr) : (s.setPending v).out = s.out := rfl
@[simp] theorem State.setPending_tly (s : State) (v : List Instr) : (s.setPending v).tly = s.tly := rfl
@[simp] theorem State.setPending_sst (s : State) (v : List Instr) : (s.setPending v).sst = s.sst := rfl
@[simp] theorem State.setPending_xch (s : State) (v : List Instr) : (s.setPending v).xch = s.xch := rfl
@[simp] theorem State.setPending_mem (s : State) (v : List Instr) : (s.setPending v).mem = s.mem := rfl

end Sys2Proof.Machine
end

