-- ==== Sys2Proof/Laws/Stable.lean ====
section
/-!
SUPPORT. What every part of the block's work keeps. Nine kinds of property, each closed under more changes of state than
the one before, and one lemma `<operation>_keeps` for each shared operation, under the least kind that covers what the
operation changes. A frame or an invariant over all commands follows from the few operations that these leave out.
-/

namespace Sys2Proof.Machine

/-- A change of the Exchange Controller that leaves attention and the places of the journals as they are and keeps
    every
journal bounded. -/
def Exchange.Quiet (old new : Exchange) : Prop :=
  new.attn = old.attn ∧ new.attnEn = old.attnEn ∧ new.line = old.line ∧
    ∀ id, (new.journal id).place = (old.journal id).place ∧ ((old.journal id).bounded → (new.journal id).bounded)

/-- A property that tally events, records and notices keep: it is closed under changes of the counters, of the last
fault code and of a journal's counts, under latching a cause, and under writes to the part's own bytes. -/
structure Watch (P : State → Prop) : Prop where
  counters : ∀ s v, P s → P (s.setTly { s.tly with counters := v })
  journal : ∀ s id j, j.place = (s.xch.journal id).place → j.readCopy = (s.xch.journal id).readCopy →
    j.lastRead = (s.xch.journal id).lastRead → ((s.xch.journal id).bounded → j.bounded) → P s →
    P (s.setXch (s.xch.setJournal id j))
  fault : ∀ s v, P s → P (s.setXch { s.xch with lastFault := v })
  raise : ∀ s c, P s → P (s.setXch (s.xch.setAttention (s.xch.attn ||| AttnCause.bit c) s.xch.attnEn))
  mem : ∀ s v, (s.mem.wf = true → v.wf = true) → v.generation = s.mem.generation →
    (∀ a, ¬ s.owns a → v.read a = s.mem.read a) → P s → P (s.setMem v)

/-- A watched property that the stretches of the Coverage Unit keep as well. -/
structure Cover (P : State → Prop) : Prop extends Watch P where
  cov : ∀ s v, (s.cov.Sound → v.Sound) → P s → P (s.setCov v)

/-- A property that the inspection of the ribbon keeps: the lanes, the Flaw Assembler, the edges, presence and width
check of the tracker, and the Mark List. -/
structure Inspect (P : State → Prop) : Prop extends Cover P where
  lanes : ∀ s v, P s → P (s.setLanes v)
  fas : ∀ s v, (s.fas.Sound → v.Sound) → P s → P (s.setFas v)
  tracker : ∀ s v, v.gantry = s.rtk.gantry → v.triggerBase = s.rtk.triggerBase → v.triggerCount = s.rtk.triggerCount
      →
    v.gate = s.rtk.gate → P s → P (s.setRtk v)
  marks : ∀ s v, (s.out.marks.length ≤ Config.markListCapacity → v.length ≤ Config.markListCapacity) → P s →
    P (s.setOut { s.out with marks := v })

/-- An inspected property that the outputs and the reports of the Segment Queue keep as well. -/
structure Fire (P : State → Prop) : Prop extends Inspect P where
  queue : ∀ s v, v.length ≤ s.cpl.queue.length → P s → P (s.setCpl { s.cpl with queue := v })
  out : ∀ s v, v.hold = s.out.hold → v.cuts.length ≤ s.out.cuts.length → (s.out.Sound → v.Sound) → P s → P
      (s.setOut v)

/-- A property that the work of every block below the planner and the Set Store keeps: the triggers and the speed
    gate
as well. -/
structure Calm (P : State → Prop) : Prop extends Fire P where
  rtk : ∀ s v, v.gantry = s.rtk.gantry → P s → P (s.setRtk v)

/-- A calm property that changes of the planner, the tallies' shifts, the edit numbers, the lane mask, the marker
    hold
and the Set Store keep, the line settings and the section of them that waits apart. -/
structure Stable (P : State → Prop) : Prop extends Calm P where
  laneMask : ∀ s v, P s → P (s.setLaneMask v)
  hold : ∀ s v, (s.out.Sound → v.Sound) → P s → P (s.setOut v)
  cpl : ∀ s v, (s.cpl.serial ≠ 0 → v.serial ≠ 0) → P s → P (s.setCpl v)
  tly : ∀ s v, P s → P (s.setTly v)
  accept : ∀ s sec edit, sec = .settings ∨ sec = .productSet ∨ sec = .amendment → P s → P (acceptEdit s sec edit)
  sst : ∀ s v, v.settings = s.sst.settings → v.waitingSettings = s.sst.waitingSettings →
    (s.sst.serial ≠ 0 → v.serial ≠ 0) → P s → P (s.setSst v)

/-- A stable property that the taking of line settings keeps as well. -/
structure Whole (P : State → Prop) : Prop extends Stable P where
  waiting : ∀ s v, P s → P (s.setSst { s.sst with waitingSettings := v })
  place : ∀ s m image, checkSettings (readSettings m image).value = none → P s →
    P (placeSettings s (readSettings m image).value)

/-- A whole property that the acceptance of every section keeps. -/
structure Passed (P : State → Prop) : Prop extends Whole P where
  acceptAny : ∀ s sec edit, P s → P (acceptEdit s sec edit)

/-- A passed property that the poll's own bookkeeping keeps: the edit numbers, the read counts and the poll timer. -/
structure Polled (P : State → Prop) : Prop extends Passed P where
  xch : ∀ s v, s.xch.Quiet v → P s → P (s.setXch v)

theorem foldl_keeps {α : Type} {P : State → Prop} {f : State → α → State} (hf : ∀ s x, P s → P (f s x)) :
    ∀ (l : List α) (s : State), P s → P (l.foldl f s) := by
  intro l
  induction l with
  | nil => intro s h; exact h
  | cons x rest ih => intro s h; exact ih _ (hf s x h)

theorem ite_keeps {P : State → Prop} (c : Prop) [Decidable c] {a b : State} (ha : P a) (hb : P b) :
    P (if c then a else b) := by
  split
  · exact ha
  · exact hb

/-! ## Lists keep their bounds -/

theorem nextSerial_ne_zero (n : BitVec 32) : nextSerial n ≠ 0 := by
  unfold nextSerial
  split
  · decide
  · assumption

theorem insertBefore_length {α : Type} (before : α → α → Bool) (x : α) (l : List α) :
    (insertBefore before x l).length = l.length + 1 := by
  induction l with
  | nil => rfl
  | cons y rest ih =>
    unfold insertBefore
    split
    · rfl
    · simp only [List.length_cons, ih]

/-- A list without its last element's kind is shorter. -/
theorem filter_ne_last_length {l : List Stretch} {last : Stretch} (h : l.getLast? = some last) :
    (l.filter fun x => decide (x.order ≠ last.order)).length < l.length := by
  have hm : last ∈ l := List.mem_of_getLast? h
  refine List.length_filter_lt_length_iff_exists.mpr ⟨last, hm, by simp⟩

theorem insertBefore_perm {α : Type} (before : α → α → Bool) (x : α) (l : List α) :
    (insertBefore before x l).Perm (x :: l) := by
  induction l with
  | nil => exact List.Perm.refl _
  | cons y rest ih =>
    unfold insertBefore
    split
    · exact List.Perm.refl _
    · exact (ih.cons y).trans (List.Perm.swap x y rest)

/-- The orders of entry of a list are distinct and below a bound. -/
def OrdersBelow (l : List Stretch) (n : Nat) : Prop :=
  l.Pairwise (fun a b => a.order ≠ b.order) ∧ ∀ e ∈ l, e.order < n

theorem OrdersBelow.filter {l : List Stretch} {n : Nat} (h : OrdersBelow l n) (p : Stretch → Bool) :
    OrdersBelow (l.filter p) n :=
  ⟨h.1.filter p, fun e he => h.2 e (List.mem_filter.mp he).1⟩

/-- A new entry whose order of entry no entry has. -/
theorem OrdersBelow.insert {l : List Stretch} {m n : Nat} {e : Stretch} (h : OrdersBelow l m) (le : m ≤ n)
    (fresh : ∀ x ∈ l, e.order ≠ x.order) (below : e.order < n) :
    OrdersBelow (insertBefore Stretch.before e l) n := by
  have p := insertBefore_perm Stretch.before e l
  refine ⟨(p.pairwise_iff (fun h => h.symm)).mpr (List.pairwise_cons.mpr ⟨fresh, h.1⟩), ?_⟩
  intro x hx
  cases List.mem_cons.mp (p.mem_iff.mp hx) with
  | inl he => rw [he]; exact below
  | inr hx => exact Nat.lt_of_lt_of_le (h.2 x hx) le

/-- Changing entries without changing their orders of entry. -/
theorem OrdersBelow.map {l : List Stretch} {n : Nat} (h : OrdersBelow l n) (f : Stretch → Stretch)
    (hf : ∀ x, (f x).order = x.order) : OrdersBelow (l.map f) n := by
  refine ⟨List.pairwise_map.mpr (h.1.imp fun {a b} k => by rw [hf, hf]; exact k), ?_⟩
  intro x hx
  obtain ⟨y, hy, rfl⟩ := List.mem_map.mp hx
  rw [hf]
  exact h.2 y hy

/-! ## Records stay in their slots -/

theorem layout_length_le (size : Nat) (fields : List (Nat × List Byte)) : (layout size fields).length ≤ size := by
  simp only [layout, List.length_take]
  exact Nat.min_le_left _ _

theorem noticeRecord_length_le (s : State) (kind : NoticeKind) (urgent : Bool) (body : List (Nat × List Byte)) :
    (noticeRecord s kind urgent body).length ≤ Config.noticeRecordSize := layout_length_le _ _

theorem flawRecord_length_le (f : Flaw) : (flawRecord f).length ≤ Config.flawRecordSize := layout_length_le _ _

theorem orderRecord_length_le (g : Segment) (line : Nat) (remaining : Option Nat) (total : Nat) (p : Plate × Nat) :
    (orderRecord g line remaining total p).length ≤ Config.plateRecordSize := by
  unfold orderRecord
  exact layout_length_le _ _

theorem segmentRecords_length_le (g : Segment) : ∀ r ∈ segmentRecords g, r.length ≤ Config.plateRecordSize := by
  intro r hr
  unfold segmentRecords at hr
  split at hr
  · simp only [List.mem_map] at hr
    obtain ⟨p, _, rfl⟩ := hr
    exact orderRecord_length_le _ _ _ _ _
  · rw [List.mem_singleton.mp hr]
    apply layout_length_le

theorem ExchangeMemory.read_writeSlots_other {p : JournalPlace} {size b : Nat} (out : ¬ p.holds size b)
    (some_slot : 0 < p.capacity) :
    ∀ (records : List (List Byte)) (m : ExchangeMemory) (count : BitVec 32), (∀ r ∈ records, r.length ≤ size) →
      (m.writeSlots p size count records).read b = m.read b := by
  intro records
  induction records with
  | nil => intros; rfl
  | cons r rest ih =>
    intro m count fits
    simp only [ExchangeMemory.writeSlots]
    rw [ih _ _ fun x hx => fits x (List.mem_cons_of_mem _ hx)]
    refine ExchangeMemory.read_writeBytes_other _ _ _ ?_
    have h1 := fits r List.mem_cons_self
    have h2 : count.toNat % p.capacity < p.capacity := Nat.mod_lt _ some_slot
    have h3 : (count.toNat % p.capacity + 1) * size ≤ p.capacity * size := Nat.mul_le_mul_right _ h2
    rw [Nat.add_mul, Nat.one_mul] at h3
    simp only [JournalPlace.slot]
    unfold JournalPlace.holds at out
    omega

theorem raiseCause_keeps {P : State → Prop} (hP : Watch P) (s : State) (c : AttnCause) (hs : P s) : P
    (raiseCause s c) :=
  hP.raise s c hs

theorem raiseCauseIf_keeps {P : State → Prop} (hP : Watch P) (s : State) (p : Bool) (c : AttnCause) (hs : P s) :
    P (raiseCauseIf s p c) := by
  unfold raiseCauseIf
  try dsimp only
  repeat' first
    | with_reducible assumption | with_reducible apply raiseCause_keeps hP | exact fun h => h | intro _ | split

theorem addTallies_keeps {P : State → Prop} (hP : Watch P) (s : State) (gain : Counter → Nat) (hs : P s) :
    P (addTallies s gain) := by
  unfold addTallies
  try dsimp only
  repeat' first
    | with_reducible assumption | with_reducible apply raiseCauseIf_keeps hP | with_reducible apply hP.counters
    | exact fun h => h | intro _ | split

theorem tallyEvent_keeps {P : State → Prop} (hP : Watch P) (s : State) (kind : TallyKind) (selector : Nat)
    (magnitude : Option Nat) (hs : P s) :
    P (tallyEvent s kind selector magnitude) := by
  unfold tallyEvent
  try dsimp only
  repeat' first | with_reducible assumption | with_reducible apply addTallies_keeps hP

theorem noteLevels_keeps {P : State → Prop} (hP : Watch P) (s : State) (hs : P s) : P (noteLevels s) := by
  unfold noteLevels
  try dsimp only
  repeat' first
    | with_reducible assumption | with_reducible apply addTallies_keeps hP | with_reducible apply hP.counters

theorem advanceLevels_keeps {P : State → Prop} (hP : Watch P) (s : State) (hs : P s) : P (advanceLevels s) := by
  unfold advanceLevels
  try dsimp only
  repeat' first | with_reducible assumption | with_reducible apply addTallies_keeps hP

theorem State.setLane_keeps {P : State → Prop} (hP : Inspect P) (s : State) (i : LaneId) (l : Lane) (hs : P s) :
    P (State.setLane s i l) := by
  unfold State.setLane
  try dsimp only
  repeat' first | with_reducible assumption | with_reducible apply hP.lanes

@[simp] theorem Exchange.journal_setJournal_same (x : Exchange) (id : JournalId) (j : Journal) :
    (x.setJournal id j).journal id = j := by cases id <;> rfl

theorem Exchange.journal_setJournal_other (x : Exchange) {id id' : JournalId} (j : Journal) (h : id' ≠ id) :
    (x.setJournal id j).journal id' = x.journal id' := by
  cases id <;> cases id' <;> first | rfl | exact absurd rfl h

@[simp] theorem Exchange.setJournal_attn (x : Exchange) (id : JournalId) (j : Journal) :
    (x.setJournal id j).attn = x.attn := by cases id <;> rfl

@[simp] theorem Exchange.setJournal_attnEn (x : Exchange) (id : JournalId) (j : Journal) :
    (x.setJournal id j).attnEn = x.attnEn := by cases id <;> rfl

@[simp] theorem Exchange.setJournal_line (x : Exchange) (id : JournalId) (j : Journal) :
    (x.setJournal id j).line = x.line := by cases id <;> rfl

/-- Replacing one journal by one that is bounded whenever the old one was is a quiet change. -/
theorem Exchange.quiet_setJournal (x : Exchange) (id : JournalId) (j : Journal)
    (hp : j.place = (x.journal id).place) (h : (x.journal id).bounded → j.bounded) : x.Quiet
        (x.setJournal id j) := by
  refine ⟨x.setJournal_attn id j, x.setJournal_attnEn id j, x.setJournal_line id j, fun id' => ?_⟩
  by_cases e : id' = id
  · subst e; simpa using ⟨hp, h⟩
  · rw [x.journal_setJournal_other j e]; exact ⟨rfl, fun h => h⟩

theorem Exchange.quiet_firstPoll (x : Exchange) (b : Bool) : x.Quiet { x with firstPoll := b } :=
  ⟨rfl, rfl, rfl, fun id => by cases id <;> exact ⟨rfl, fun h => h⟩⟩

/-- Records written where there is room leave the journal bounded (R173). -/
theorem Journal.bounded_write (j : Journal) (n : Nat) (room : j.roomFor n = true) (h : j.bounded) :
    Journal.bounded { j with writeCount := j.writeCount + BitVec.ofNat 32 n } := by
  intro p hp
  have hp' : j.place = some p := hp
  obtain ⟨h1, h2⟩ := h p hp'
  have room' : j.unread + n ≤ p.capacity := by
    unfold Journal.roomFor at room
    rw [hp'] at room
    exact of_decide_eq_true room
  simp only [Journal.unread] at room' h1
  refine ⟨?_, h2⟩
  simp only [Journal.unread]
  have e : j.writeCount + BitVec.ofNat 32 n - j.readCopy = (j.writeCount - j.readCopy) + BitVec.ofNat 32 n := by
    generalize BitVec.ofNat 32 n = b
    bv_omega
  rw [e, BitVec.toNat_add, BitVec.toNat_ofNat]
  have := Nat.mod_le n (2 ^ 32)
  have := Nat.mod_le ((j.writeCount - j.readCopy).toNat + n % 2 ^ 32) (2 ^ 32)
  omega

theorem ExchangeMemory.writeBytes_generation :
    ∀ (bytes : List Byte) (m : ExchangeMemory) (a : Nat), (m.writeBytes a bytes).generation = m.generation := by
  intro bytes
  induction bytes with
  | nil => intros; rfl
  | cons v rest ih => intro m a; simp only [ExchangeMemory.writeBytes]; rw [ih, ExchangeMemory.write_generation]

theorem ExchangeMemory.writeSlots_generation (p : JournalPlace) (size : Nat) :
    ∀ (records : List (List Byte)) (m : ExchangeMemory) (count : BitVec 32),
      (m.writeSlots p size count records).generation = m.generation := by
  intro records
  induction records with
  | nil => intros; rfl
  | cons r rest ih =>
    intro m count; simp only [ExchangeMemory.writeSlots]; rw [ih, ExchangeMemory.writeBytes_generation]

theorem writeRecords_keeps {P : State → Prop} (hP : Watch P) (s : State) (id : JournalId)
    (records : List (List Byte))
    (room : (s.xch.journal id).roomFor records.length = true) (fits : ∀ r ∈ records, r.length ≤ id.recordSize)
    (hs : P s) : P (writeRecords s id records) := by
  unfold writeRecords
  dsimp only
  split
  · exact hs
  · next p hp =>
    refine raiseCauseIf_keeps hP _ _ _
        (hP.journal _ _ _ rfl rfl rfl (Journal.bounded_write _ _ room) (hP.mem _ _ ?_ ?_ ?_ hs))
    · exact fun hw => ExchangeMemory.writeBytes_wf _ _ _ (ExchangeMemory.writeSlots_wf _ _ _ _ _ hw)
    · rw [ExchangeMemory.writeBytes_generation, ExchangeMemory.writeSlots_generation]
    · intro a ha
      unfold State.owns at ha
      push Not at ha
      obtain ⟨h1, h2⟩ := ha
      rw [ExchangeMemory.read_writeBytes_other]
      · cases records with
        | nil => rfl
        | cons r rest =>
          refine ExchangeMemory.read_writeSlots_other (h2 id p hp) ?_ _ _ _ fits
          simp only [Journal.roomFor, hp, decide_eq_true_eq, List.length_cons] at room
          omega
      · have : id.code ≤ 2 := by cases id <;> decide
        simp only [JournalId.writeCountAddress, le, List.length_cons, List.length_nil]
        simp only [Config.markBlock, Config.blockSize] at h1 ⊢
        omega

theorem withhold_keeps {P : State → Prop} (hP : Watch P) (s : State) (id : JournalId) (hs : P s) : P
    (withhold s id) :=
  tallyEvent_keeps hP _ _ _ _ (hP.journal _ _ _ rfl rfl rfl (fun h => h) hs)

theorem setLastFault_keeps {P : State → Prop} (hP : Watch P) (s : State) (kind : NoticeKind) (hs : P s) :
    P (setLastFault s kind) :=
  hP.fault _ _ hs

theorem notifyWith_keeps {P : State → Prop} (hP : Watch P) (s : State) (kind : NoticeKind) (urgent : Bool)
    (body : List (Nat × List Byte)) (hs : P s) : P (notifyWith s kind urgent body) := by
  unfold notifyWith
  dsimp only
  split
  · next room =>
    have h1 := writeRecords_keeps hP s .notice [noticeRecord s kind urgent body] room
      (fun r hr => by rw [List.mem_singleton.mp hr]; exact noticeRecord_length_le _ _ _ _) hs
    split
    · exact setLastFault_keeps hP _ _ (raiseCause_keeps hP _ _ h1)
    · exact h1
  · have h1 := withhold_keeps hP s .notice hs
    split
    · exact setLastFault_keeps hP _ _ (raiseCause_keeps hP _ _ h1)
    · exact h1

theorem notify_keeps {P : State → Prop} (hP : Watch P) (s : State) (kind : NoticeKind)
    (body : List (Nat × List Byte)) (hs : P s) :
    P (notify s kind body) := by
  unfold notify
  try dsimp only
  repeat' first | with_reducible assumption | with_reducible apply notifyWith_keeps hP

theorem notifyStretch_keeps {P : State → Prop} (hP : Watch P) (s : State) (action : StretchAction) (e : Stretch)
    (incoming : Option Cause) (hs : P s) :
    P (notifyStretch s action e incoming) := by
  unfold notifyStretch
  try dsimp only
  repeat' first | with_reducible assumption | with_reducible apply notify_keeps hP

theorem addEntry_keeps {P : State → Prop} (hP : Cover P) (s : State) (inc : Incoming)
    (room : s.cov.list.length < Config.stretchCapacity) (hs : P s) : P (addEntry s inc) :=
  notifyStretch_keeps hP.toWatch _ _ _ _ (hP.cov _ _ (fun h => ⟨nextSerial_ne_zero _, by
    simp only [Coverage.insert, insertBefore_length]; exact room,
    OrdersBelow.insert h.2.2 (Nat.le_succ _) (fun x hx => Nat.ne_of_gt (h.2.2.2 x hx)) (Nat.lt_succ_self _)⟩) hs)

theorem passEntry_keeps {P : State → Prop} (hP : Cover P) (s : State) (inc : Incoming) (hs : P s) :
    P (passEntry s inc) :=
  notifyStretch_keeps hP.toWatch _ _ _ _ (hP.cov _ _ (fun h => ⟨nextSerial_ne_zero _, h.2⟩) hs)

theorem foldEntry_keeps {P : State → Prop} (hP : Cover P) (s : State) (last : Stretch) (inc : Incoming)
    (hl : s.cov.list.getLast? = some last) (hs : P s) : P (foldEntry s last inc) :=
  notifyStretch_keeps hP.toWatch _ _ _ _ (hP.cov _ _ (fun h => ⟨h.1, by
    simp only [Coverage.insert, insertBefore_length]
    exact Nat.le_trans (filter_ne_last_length hl) h.2.1,
    OrdersBelow.insert (OrdersBelow.filter h.2.2 _) (Nat.le_refl _)
      (fun x hx => fun k => (of_decide_eq_true (List.mem_filter.mp hx).2) k.symm)
      (h.2.2.2 last (List.mem_of_getLast? hl))⟩) hs)

theorem enterStretch_keeps {P : State → Prop} (hP : Cover P) (s : State) (inc : Incoming) (hs : P s) :
    P (enterStretch s inc) := by
  unfold enterStretch
  split
  · exact passEntry_keeps hP _ _ hs
  · split
    · next last hl =>
      split
      · exact foldEntry_keeps hP _ _ _ hl hs
      · next full => exact addEntry_keeps hP _ _ (by simpa [Coverage.full] using full) hs
    · next hl =>
      refine addEntry_keeps hP _ _ ?_ hs
      rw [List.getLast?_eq_none_iff.mp hl]
      decide

theorem Coverage.setCause_serial (c : Coverage) (oc : OpenCause) (v : CauseState) :
    (c.setCause oc v).serial = c.serial := by
  cases oc <;> rfl

theorem Coverage.setCause_list (c : Coverage) (oc : OpenCause) (v : CauseState) :
    (c.setCause oc v).list = c.list := by
  cases oc <;> rfl

theorem Coverage.setCause_entered (c : Coverage) (oc : OpenCause) (v : CauseState) :
    (c.setCause oc v).entered = c.entered := by
  cases oc <;> rfl

theorem Coverage.sound_setCause (c : Coverage) (oc : OpenCause) (v : CauseState) (h : c.Sound) :
    (c.setCause oc v).Sound := by
  unfold Coverage.Sound
  rw [c.setCause_serial oc v, c.setCause_list oc v, c.setCause_entered oc v]
  exact h

theorem closePart_keeps {P : State → Prop} (hP : Cover P) (s : State) (oc : OpenCause) (p : Pos) (hs : P s) :
    P (closePart s oc p) := by
  unfold closePart
  dsimp only
  split
  · exact hs
  · next part _ =>
    have h1 := hP.cov s (s.cov.setCause oc { s.cov.causeState oc with part := none })
        (Coverage.sound_setCause _ _ _) hs
    split
    · exact h1
    · next e _ =>
      have h2 : ∀ s' : State, P s' → ∀ e', P (s'.setCov (s'.cov.replace e')) := fun s' h e' =>
        hP.cov _ _ (fun k => ⟨k.1, by simp only [Coverage.replace, List.length_map]; exact k.2.1,
          OrdersBelow.map k.2.2 _ fun x => by
            split
            · next same => exact same.symm
            · rfl⟩) h
      generalize e.closeCause oc.cause p = e'
      have h3 := fun action => notifyStretch_keeps hP.toWatch _ action e' none (h2 _ h1 e')
      refine ite_keeps _ (hP.cov _ _ (fun h => ⟨h.1, ?_⟩) (h3 _)) (h3 _)
      exact ⟨Nat.le_trans (List.length_filter_le _ _) h.2.1, OrdersBelow.filter h.2.2 _⟩

theorem openPart_keeps {P : State → Prop} (hP : Cover P) (s : State) (oc : OpenCause) (tracks : TrackSet) (p : Pos)
    (lane : Option LaneId) (hs : P s) : P (openPart s oc tracks p lane) := by
  unfold openPart
  dsimp only
  split
  · exact hP.cov _ _ (Coverage.sound_setCause _ _ _) hs
  · exact enterStretch_keeps hP _ _ (hP.cov _ _ (Coverage.sound_setCause _ _ _) hs)

theorem passCause_keeps {P : State → Prop} (hP : Cover P) (p : Pos) (s : State) (oc : OpenCause) (hs : P s) :
    P (passCause p s oc) := by
  unfold passCause
  try dsimp only
  repeat' first
    | with_reducible assumption | with_reducible apply closePart_keeps hP | with_reducible apply openPart_keeps hP

theorem passBoundary_keeps {P : State → Prop} (hP : Cover P) (s : State) (p : Pos) (hs : P s) :
    P (passBoundary s p) := by
  unfold passBoundary
  try dsimp only
  repeat' first
    | with_reducible assumption | with_reducible apply noteLevels_keeps hP.toWatch
    | with_reducible apply passCause_keeps hP | with_reducible apply foldl_keeps | with_reducible apply hP.cov
    | exact fun h => h

theorem passBoundaryUpTo_keeps {P : State → Prop} (hP : Cover P) (s : State) (y : Pos) (hs : P s) :
    P (passBoundaryUpTo s y) := by
  unfold passBoundaryUpTo
  try dsimp only
  repeat' first
    | with_reducible assumption | with_reducible apply passBoundary_keeps hP | exact fun h => h | intro _ | split

theorem followClosed_keeps {P : State → Prop} (hP : Cover P) (s : State) (hs : P s) : P (followClosed s) := by
  unfold followClosed
  try dsimp only
  repeat' first | with_reducible assumption | with_reducible apply passBoundaryUpTo_keeps hP

theorem enterClosed_keeps {P : State → Prop} (hP : Cover P) (s : State) (cause : Cause) (mask : Pos → TrackSet)
    (start stop : Pos) (lane : Option LaneId) (hs : P s) :
    P (enterClosed s cause mask start stop lane) := by
  unfold enterClosed
  try dsimp only
  repeat' first
    | with_reducible assumption | with_reducible apply enterStretch_keeps hP | exact fun h => h | intro _ | split

theorem workChange_keeps {P : State → Prop} (hP : Cover P) (s : State) (cond : Condition) (p : Pos)
    (lane : Option LaneId) (hs : P s) :
    P (workChange s cond p lane) := by
  unfold workChange
  try dsimp only
  repeat' first
    | with_reducible assumption | with_reducible apply closePart_keeps hP | with_reducible apply openPart_keeps hP
    | with_reducible apply enterClosed_keeps hP | exact fun h => h | intro _ | split

theorem passForChange_keeps {P : State → Prop} (hP : Cover P) (s : State) (cond : Condition) (p : Pos) (hs : P s) :
    P (passForChange s cond p) := by
  unfold passForChange
  exact ite_keeps _ (passBoundaryUpTo_keeps hP _ _ hs) hs

theorem changeCause_keeps {P : State → Prop} (hP : Cover P) (s : State) (cond : Condition) (position : Pos)
    (lane : Option LaneId) (hs : P s) :
    P (changeCause s cond position lane) := by
  unfold changeCause
  try dsimp only
  repeat' first
    | with_reducible assumption | with_reducible apply noteLevels_keeps hP.toWatch
    | with_reducible apply passForChange_keeps hP | with_reducible apply workChange_keeps hP | exact fun h => h
    | intro _ | split

theorem giveGap_keeps {P : State → Prop} (hP : Cover P) (s : State) (i : LaneId) (start stop : Pos) (hs : P s) :
    P (giveGap s i start stop) := by
  unfold giveGap
  try dsimp only
  repeat' first
    | with_reducible assumption | with_reducible apply enterClosed_keeps hP | exact fun h => h | intro _ | split

theorem giveSpill_keeps {P : State → Prop} (hP : Cover P) (s : State) (f : Flaw) (hs : P s) : P (giveSpill s f) := by
  unfold giveSpill
  try dsimp only
  repeat' first
    | with_reducible assumption | with_reducible apply enterClosed_keeps hP | exact fun h => h | intro _ | split

theorem startCause_keeps {P : State → Prop} (hP : Cover P) (c : Pos) (s : State) (cond : Condition) (hs : P s) :
    P (startCause c s cond) := by
  unfold startCause
  try dsimp only
  repeat' first | with_reducible assumption | with_reducible apply openPart_keeps hP

theorem startCoverage_keeps {P : State → Prop} (hP : Cover P) (s : State) (hs : P s) : P (startCoverage s) := by
  unfold startCoverage
  try dsimp only
  repeat' first
    | with_reducible assumption | with_reducible apply noteLevels_keeps hP.toWatch
    | with_reducible apply startCause_keeps hP | with_reducible apply foldl_keeps | with_reducible apply hP.cov
    | exact fun h => h

theorem stopCoverage_keeps {P : State → Prop} (hP : Cover P) (s : State) (hs : P s) : P (stopCoverage s) :=
  hP.cov _ _ (fun h => ⟨h.1, Nat.zero_le _, List.Pairwise.nil, fun _ k => absurd k List.not_mem_nil⟩) hs

theorem releaseStretches_keeps {P : State → Prop} (hP : Cover P) (s : State) (hs : P s) : P (releaseStretches s) :=
  hP.cov _ _ (fun h => ⟨h.1, Nat.le_trans (List.length_filter_le _ _) h.2.1, OrdersBelow.filter h.2.2 _⟩) hs

theorem judgeHead_keeps {P : State → Prop} (hP : Fire P) (s : State) (hs : P s) : P (judgeHead s) := by
  unfold judgeHead
  split
  · exact hs
  · next h rest hc =>
    split
    · exact hP.out _ _ rfl (by rw [hc]; exact Nat.le_refl _) (fun h => h) hs
    · exact hs

theorem culletCutEvent_keeps {P : State → Prop} (hP : Watch P) (s : State) (g : Segment) (hs : P s) :
    P (culletCutEvent s g) := by
  unfold culletCutEvent
  try dsimp only
  repeat' first
    | with_reducible assumption | with_reducible apply tallyEvent_keeps hP | exact fun h => h | intro _ | split

theorem cutOwner_keeps {P : State → Prop} (hP : Fire P) (s : State) (owner : Option (BitVec 32)) (late : Bool)
    (lateness : Nat) (hs : P s) : P (cutOwner s owner late lateness) := by
  unfold cutOwner
  split
  · exact hs
  · next n =>
    dsimp only
    have h1 := hP.queue s (s.cpl.queue.map fun g => g.cutBy n late lateness) (by simp) hs
    split
    · exact culletCutEvent_keeps hP.toInspect.toCover.toWatch _ _ h1
    · exact h1

theorem fireHead_keeps {P : State → Prop} (hP : Fire P) (s : State) (hs : P s) : P (fireHead s) := by
  unfold fireHead
  split
  · exact hs
  · next h rest hc =>
    dsimp only
    split
    · have h1 : ∀ ends, P (s.setOut { s.out with cuts := rest, strobe := { phase := .pulse, high := true, ends :=
            ends } }) :=
        fun ends => hP.out _ _ rfl (by rw [hc]; exact Nat.le_succ _) (fun h => ⟨rfl, h.2⟩) hs
      split
      · exact tallyEvent_keeps hP.toInspect.toCover.toWatch _ _ _ _ (cutOwner_keeps hP _ _ _ _ (h1 _))
      · exact cutOwner_keeps hP _ _ _ _ (h1 _)
    · exact hs

theorem testCuts_keeps {P : State → Prop} (hP : Fire P) (s : State) (hs : P s) : P (testCuts s) := by
  unfold testCuts
  try dsimp only
  repeat' first
    | with_reducible assumption | with_reducible apply judgeHead_keeps hP | with_reducible apply fireHead_keeps hP

theorem handCut_keeps {P : State → Prop} (hP : Stable P) (s : State) (position : Pos) (owner : Option (BitVec 32))
    (hs : P s) : P (handCut s position owner) := by
  unfold handCut
  dsimp only
  split
  · exact testCuts_keeps hP.toCalm.toFire _ (hP.hold _ _ (fun h => h) hs)
  · exact hP.hold _ _ (fun h => h) hs

theorem endPulse_keeps {P : State → Prop} (hP : Fire P) (s : State) (hs : P s) : P (endPulse s) :=
  hP.out _ _ rfl (Nat.le_refl _) (fun h => ⟨rfl, h.2⟩) hs

theorem endGap_keeps {P : State → Prop} (hP : Fire P) (s : State) (hs : P s) : P (endGap s) :=
  testCuts_keeps hP _ (hP.out _ _ rfl (Nat.le_refl _) (fun h => ⟨rfl, h.2⟩) hs)

theorem Outputs.sound_setNozzle (o : Outputs) (n : Fin 4) (v : Nozzle) (hv : v.high = v.busy) (h : o.Sound) :
    Outputs.Sound { o with nozzles := o.nozzles.set n v } := by
  refine ⟨h.1, fun m => ?_, h.2.2⟩
  have hm := h.2.1 m
  by_cases e : n.val = m.val
  · simp [e, hv]
  · simpa [Vector.getElem_set, e] using hm

theorem triggerNozzle_keeps {P : State → Prop} (hP : Fire P) (s : State) (n : Fin 4) (hs : P s) :
    P (triggerNozzle s n) :=
  tallyEvent_keeps hP.toInspect.toCover.toWatch _ _ _ _
      (hP.out _ _ rfl (Nat.le_refl _) (Outputs.sound_setNozzle _ _ _ rfl) hs)

theorem triggerMask_keeps {P : State → Prop} (hP : Fire P) (s : State) (mask : TrackSet) (hs : P s) :
    P (triggerMask s mask) := by
  unfold triggerMask
  try dsimp only
  repeat' first
    | with_reducible assumption | with_reducible apply triggerNozzle_keeps hP | with_reducible apply foldl_keeps

theorem testMarks_keeps {P : State → Prop} (hP : Fire P) (s : State) (hs : P s) : P (testMarks s) := by
  unfold testMarks
  dsimp only
  refine foldl_keeps (fun t m ht => triggerMask_keeps hP _ _ ht) _ _ (hP.marks _ _ (fun h => ?_) hs)
  exact Nat.le_trans (List.dropWhile_sublist _).length_le h

theorem offerMark_keeps {P : State → Prop} (hP : Inspect P) (s : State) (flaw : BitVec 32) (tracks : TrackSet)
    (yStart : Pos) (hs : P s) : P (offerMark s flaw tracks yStart) := by
  unfold offerMark
  split
  · next planned =>
    refine hP.marks _ _ (fun _ => ?_) hs
    rw [insertBefore_length]
    unfold markOutcome at planned
    split at planned; · cases planned
    split at planned; · cases planned
    split at planned; · cases planned
    split at planned; · cases planned
    next room => exact Nat.lt_of_not_le room
  · exact tallyEvent_keeps hP.toCover.toWatch _ _ _ _ hs

theorem cancelMarks_keeps {P : State → Prop} (hP : Inspect P) (s : State) (hs : P s) : P (cancelMarks s) :=
  foldl_keeps (fun _ _ ht => tallyEvent_keeps hP.toCover.toWatch _ _ _ _ ht) _ _
      (hP.marks _ _ (fun _ => Nat.zero_le _) hs)

theorem notifyCancelled_keeps {P : State → Prop} (hP : Watch P) (s : State) (cause count : Nat) (hs : P s) :
    P (notifyCancelled s cause count) := by
  unfold notifyCancelled
  try dsimp only
  repeat' first | with_reducible assumption | with_reducible apply notify_keeps hP

theorem mapVec_getElem {α β : Type} {n : Nat} (f : α → β) (v : Vector α n) (i : Fin n) :
    (mapVec f v)[i] = f v[i] := by
  simp [mapVec]

theorem holdOn_keeps {P : State → Prop} (hP : Stable P) (s : State) (hs : P s) : P (holdOn s) :=
  notifyCancelled_keeps hP.toCalm.toFire.toInspect.toCover.toWatch _ _ _
      (cancelMarks_keeps hP.toCalm.toFire.toInspect _ (hP.hold _ _
    (fun h => ⟨h.1, fun n => by rw [mapVec_getElem]; rfl, h.2.2⟩) hs))

theorem takeHold_keeps {P : State → Prop} (hP : Stable P) (s : State) (hold : Bool) (hs : P s) :
    P (takeHold s hold) := by
  unfold takeHold
  try dsimp only
  repeat' first
    | with_reducible assumption | with_reducible apply holdOn_keeps hP | with_reducible apply hP.hold
    | exact fun h => h | intro _ | split

theorem settingsMarks_keeps {P : State → Prop} (hP : Inspect P) (s : State) (hs : P s) : P (settingsMarks s) := by
  unfold settingsMarks
  try dsimp only
  repeat' first
    | with_reducible assumption | with_reducible apply cancelMarks_keeps hP
    | with_reducible apply notifyCancelled_keeps hP.toCover.toWatch | exact fun h => h | intro _ | split

theorem endNozzle_keeps {P : State → Prop} (hP : Fire P) (s : State) (n : Fin 4) (hs : P s) : P (endNozzle s n) :=
  hP.out _ _ rfl (Nat.le_refl _) (Outputs.sound_setNozzle _ _ _ rfl) hs

theorem testOutputs_keeps {P : State → Prop} (hP : Fire P) (s : State) (hs : P s) : P (testOutputs s) := by
  unfold testOutputs
  try dsimp only
  repeat' first
    | with_reducible assumption | with_reducible apply testCuts_keeps hP | with_reducible apply testMarks_keeps hP

theorem setBlobs_keeps {P : State → Prop} (hP : Inspect P) (s : State) (i : LaneId) (blobs : List Blob) (hs : P s) :
    P (setBlobs s i blobs) := by
  unfold setBlobs
  try dsimp only
  repeat' first | with_reducible assumption | with_reducible apply hP.fas | exact fun h => h

theorem removeBlob_keeps {P : State → Prop} (hP : Inspect P) (s : State) (i : LaneId) (b : Blob) (hs : P s) :
    P (removeBlob s i b) := by
  unfold removeBlob
  try dsimp only
  repeat' first | with_reducible assumption | with_reducible apply setBlobs_keeps hP

theorem openBlob_keeps {P : State → Prop} (hP : Inspect P) (s : State) (i : LaneId) (b : Blob) (hs : P s) :
    P (openBlob s i b) := by
  unfold openBlob
  try dsimp only
  repeat' first
    | with_reducible assumption | with_reducible apply setBlobs_keeps hP | with_reducible apply hP.fas
    | exact fun h => h

theorem insertFlaw_keeps {P : State → Prop} (hP : Inspect P) (s : State) (f : Flaw) (withheld : Bool)
    (room : s.fas.map.length < Config.flawMapCapacity) (hs : P s) : P (insertFlaw s f withheld) :=
  hP.fas _ _ (fun h => ⟨h.1, by simp only [insertBefore_length]; exact room⟩) hs

theorem journalFlaw_keeps {P : State → Prop} (hP : Watch P) (s : State) (f : Flaw) (hs : P s) :
    P (journalFlaw s f) := by
  unfold journalFlaw
  split
  · next room =>
    exact writeRecords_keeps hP s .flaw [flawRecord f] room
      (fun r hr => by rw [List.mem_singleton.mp hr]; exact flawRecord_length_le _) hs
  · exact withhold_keeps hP s .flaw hs

theorem offerFlaw_keeps {P : State → Prop} (hP : Inspect P) (s : State) (f : Flaw) (hs : P s) : P
    (offerFlaw s f).1 := by
  unfold offerFlaw
  dsimp only
  split
  · exact offerMark_keeps hP _ _ _ _ hs
  · exact hs

theorem offerFlaw_fas (s : State) (f : Flaw) : (offerFlaw s f).1.fas = s.fas := by
  unfold offerFlaw offerMark
  dsimp only
  split
  · split
    · rfl
    · exact tallyEvent_keeps (P := fun t => t.fas = s.fas)
        ⟨fun _ _ h => h, fun _ _ _ _ _ _ _ h => h, fun _ _ h => h, fun _ _ h => h, fun _ _ _ _ _ h => h⟩ _ _ _ _ rfl
  · rfl

@[simp] theorem journalFlaw_fas (s : State) (f : Flaw) : (journalFlaw s f).fas = s.fas :=
  journalFlaw_keeps (P := fun t => t.fas = s.fas)
    ⟨fun _ _ h => h, fun _ _ _ _ _ _ _ h => h, fun _ _ h => h, fun _ _ h => h, fun _ _ _ _ _ h => h⟩ _ _ rfl

theorem recordFlaw_keeps {P : State → Prop} (hP : Inspect P) (s : State) (i : LaneId) (b : Blob) (x : Nat × Nat)
    (split truncated : Bool) (hs : P s) : P (recordFlaw s i b x split truncated) := by
  unfold recordFlaw
  dsimp only
  generalize hf0 : flawOf s i b x split truncated = f0
  cases ha : (!passedCutter s f0.yEnd) <;> cases hm : mapFull s <;>
    simp only [Bool.and_false, Bool.and_true, Bool.not_true, Bool.not_false, if_true,
        if_false,
      Bool.false_eq_true]
  · exact tallyEvent_keeps hP.toCover.toWatch _ _ _ _
          (journalFlaw_keeps hP.toCover.toWatch _ _ (offerFlaw_keeps hP _ _
      (hP.fas _ _ (fun h => ⟨nextSerial_ne_zero _, h.2⟩) hs)))
  · exact tallyEvent_keeps hP.toCover.toWatch _ _ _ _
          (journalFlaw_keeps hP.toCover.toWatch _ _ (offerFlaw_keeps hP _ _
      (hP.fas _ _ (fun h => ⟨nextSerial_ne_zero _, h.2⟩) hs)))
  · refine tallyEvent_keeps hP.toCover.toWatch _ _ _ _
          (insertFlaw_keeps hP _ _ _ ?_ (journalFlaw_keeps hP.toCover.toWatch _ _ (offerFlaw_keeps hP _ _
      (hP.fas _ _ (fun h => ⟨nextSerial_ne_zero _, h.2⟩) hs))))
    rw [journalFlaw_fas, offerFlaw_fas]
    simpa [mapFull] using hm
  · exact tallyEvent_keeps hP.toCover.toWatch _ _ _ _
          (tallyEvent_keeps hP.toCover.toWatch _ _ _ _ (journalFlaw_keeps hP.toCover.toWatch _ _ (offerFlaw_keeps hP
          _ _
      (giveSpill_keeps hP.toCover _ _ (hP.fas _ _ (fun h => ⟨nextSerial_ne_zero _, h.2⟩) hs)))))

theorem settleBlob_keeps {P : State → Prop} (hP : Inspect P) (s : State) (i : LaneId) (b : Blob)
    (split truncated : Bool)
    (hs : P s) : P (settleBlob s i b split truncated).1 := by
  unfold settleBlob
  split
  · exact hs
  · split
    · exact tallyEvent_keeps hP.toCover.toWatch _ _ _ _ hs
    · exact recordFlaw_keeps hP _ _ _ _ _ _ hs

theorem closeBlob_keeps {P : State → Prop} (hP : Inspect P) (s : State) (i : LaneId) (b : Blob) (truncated : Bool)
    (hs : P s) : P (closeBlob s i b truncated) :=
  removeBlob_keeps hP _ _ _ (settleBlob_keeps hP _ _ _ _ _ hs)

theorem closeBlobs_keeps {P : State → Prop} (hP : Inspect P) (s : State) (i : LaneId) (truncated : Bool)
    (blobs : List Blob) (hs : P s) :
    P (closeBlobs s i truncated blobs) := by
  unfold closeBlobs
  try dsimp only
  repeat' first
    | with_reducible assumption | with_reducible apply closeBlob_keeps hP | with_reducible apply foldl_keeps
    | exact fun h => h | intro _

theorem truncateLane_keeps {P : State → Prop} (hP : Inspect P) (s : State) (i : LaneId) (hs : P s) :
    P (truncateLane s i) := by
  unfold truncateLane
  try dsimp only
  repeat' first | with_reducible assumption | with_reducible apply closeBlobs_keeps hP

theorem splitBlob_keeps {P : State → Prop} (hP : Inspect P) (k : Nat) (i : LaneId) (s : State) (b : Blob)
    (hs : P s) :
    P (splitBlob k i s b) :=
  openBlob_keeps hP _ _ _ (removeBlob_keeps hP _ _ _ (settleBlob_keeps hP _ _ _ _ _ hs))

theorem openMark_keeps {P : State → Prop} (hP : Inspect P) (k : Nat) (i : LaneId) (s : State) (m : LineMark)
    (hs : P s) :
    P (openMark k i s m) := by
  unfold openMark
  try dsimp only
  repeat' first
    | with_reducible assumption | with_reducible apply openBlob_keeps hP | with_reducible apply closeBlob_keeps hP
    | exact fun h => h | intro _ | split

theorem assemble_keeps {P : State → Prop} (hP : Inspect P) (s : State) (i : LaneId) (k : Nat) (set : ProductSet)
    (runs : List Run) (hs : P s) :
    P (assemble s i k set runs) := by
  unfold assemble
  try dsimp only
  repeat' first
    | with_reducible assumption | with_reducible apply setBlobs_keeps hP | with_reducible apply closeBlobs_keeps hP
    | with_reducible apply splitBlob_keeps hP | with_reducible apply openMark_keeps hP
    | with_reducible apply foldl_keeps

theorem handOver_keeps {P : State → Prop} (hP : Inspect P) (s : State) (i : LaneId) (k : Nat) (runs : List Run)
    (hs : P s) :
    P (handOver s i k runs) := by
  unfold handOver
  try dsimp only
  repeat' first
    | with_reducible assumption | with_reducible apply assemble_keeps hP | exact fun h => h | intro _ | split

theorem releaseFlaws_keeps {P : State → Prop} (hP : Inspect P) (s : State) (hs : P s) : P (releaseFlaws s) :=
  hP.fas _ _ (fun h => ⟨h.1, Nat.le_trans (List.length_filter_le _ _) h.2⟩) hs

theorem setGate_keeps {P : State → Prop} (hP : Calm P) (s : State) (g : SpeedGate) (hs : P s) : P (setGate s g) := by
  unfold setGate
  try dsimp only
  repeat' first | with_reducible assumption | with_reducible apply hP.rtk | exact fun h => h | intro _ | split | rfl

theorem issueTrigger_keeps {P : State → Prop} (hP : Calm P) (s : State) (hs : P s) : P (issueTrigger s) := by
  unfold issueTrigger
  try dsimp only
  repeat' first | with_reducible assumption | with_reducible apply hP.rtk | exact fun h => h | intro _ | split | rfl

theorem restartTriggers_keeps {P : State → Prop} (hP : Calm P) (s : State) (hs : P s) : P (restartTriggers s) := by
  unfold restartTriggers
  try dsimp only
  repeat' first | with_reducible assumption | with_reducible apply hP.rtk | exact fun h => h | intro _ | split | rfl

theorem beginGate_keeps {P : State → Prop} (hP : Calm P) (s : State) (hs : P s) : P (beginGate s) := by
  unfold beginGate
  try dsimp only
  repeat' first | with_reducible assumption | with_reducible apply setGate_keeps hP

theorem endGate_keeps {P : State → Prop} (hP : Calm P) (s : State) (hs : P s) : P (endGate s) := by
  unfold endGate
  try dsimp only
  repeat' first
    | with_reducible assumption | with_reducible apply testOutputs_keeps hP.toFire
    | with_reducible apply setGate_keeps hP

theorem reportStall_keeps {P : State → Prop} (hP : Watch P) (s : State) (hs : P s) : P (reportStall s) := by
  unfold reportStall
  try dsimp only
  repeat' first
    | with_reducible assumption | with_reducible apply tallyEvent_keeps hP | with_reducible apply notify_keeps hP

theorem doStall_keeps {P : State → Prop} (hP : Calm P) (s : State) (hs : P s) : P (doStall s) := by
  unfold doStall
  try dsimp only
  repeat' first
    | with_reducible assumption | with_reducible apply setGate_keeps hP | with_reducible apply beginGate_keeps hP
    | with_reducible apply reportStall_keeps hP.toFire.toInspect.toCover.toWatch | exact fun h => h | intro _
    | split

theorem raiseSlipAlarm_keeps {P : State → Prop} (hP : Calm P) (s : State) (hs : P s) : P (raiseSlipAlarm s) := by
  unfold raiseSlipAlarm
  try dsimp only
  repeat' first
    | with_reducible assumption | with_reducible apply notify_keeps hP.toFire.toInspect.toCover.toWatch
    | with_reducible apply setGate_keeps hP | exact fun h => h | intro _ | split

theorem endSlip_keeps {P : State → Prop} (hP : Calm P) (s : State) (hs : P s) : P (endSlip s) := by
  unfold endSlip
  try dsimp only
  repeat' first
    | with_reducible assumption | with_reducible apply tallyEvent_keeps hP.toFire.toInspect.toCover.toWatch
    | with_reducible apply setGate_keeps hP | with_reducible apply beginGate_keeps hP
    | with_reducible apply raiseSlipAlarm_keeps hP | exact fun h => h | intro _ | split

theorem overflowSlip_keeps {P : State → Prop} (hP : Calm P) (s : State) (hs : P s) : P (overflowSlip s) := by
  unfold overflowSlip
  try dsimp only
  repeat' first
    | with_reducible assumption | with_reducible apply tallyEvent_keeps hP.toFire.toInspect.toCover.toWatch
    | with_reducible apply setGate_keeps hP | with_reducible apply beginGate_keeps hP
    | with_reducible apply raiseSlipAlarm_keeps hP

theorem settleGate_keeps {P : State → Prop} (hP : Calm P) (s : State) (hs : P s) : P (settleGate s) := by
  unfold settleGate
  try dsimp only
  repeat' first
    | with_reducible assumption | with_reducible apply endGate_keeps hP | with_reducible apply doStall_keeps hP
    | with_reducible apply endSlip_keeps hP | exact fun h => h | intro _ | split

theorem countStep_keeps {P : State → Prop} (hP : Calm P) (s : State) (hs : P s) : P (countStep s) := by
  unfold countStep
  try dsimp only
  repeat' first
    | with_reducible assumption | with_reducible apply setGate_keeps hP | exact fun h => h | intro _ | split

theorem countPulse_keeps {P : State → Prop} (hP : Calm P) (s : State) (hs : P s) : P (countPulse s) := by
  unfold countPulse
  try dsimp only
  repeat' first
    | with_reducible assumption | with_reducible apply setGate_keeps hP | with_reducible apply overflowSlip_keeps hP
    | exact fun h => h | intro _ | split

theorem dropThrough_keeps {P : State → Prop} (hP : Inspect P) (s : State) (k : Nat) (hs : P s) :
    P (dropThrough s k) := by
  unfold dropThrough
  try dsimp only
  repeat' first
    | with_reducible assumption | with_reducible apply hP.tracker | exact fun h => h | intro _ | split | rfl

theorem purgeEdges_keeps {P : State → Prop} (hP : Inspect P) (s : State) (hs : P s) : P (purgeEdges s) := by
  unfold purgeEdges
  try dsimp only
  repeat' first
    | with_reducible assumption | with_reducible apply hP.tracker | exact fun h => h | intro _ | split | rfl

theorem edgeLaneLeaves_keeps {P : State → Prop} (hP : Inspect P) (s : State) (i : LaneId) (hs : P s) :
    P (edgeLaneLeaves s i) := by
  unfold edgeLaneLeaves
  try dsimp only
  repeat' first
    | with_reducible assumption | with_reducible apply hP.tracker | exact fun h => h | intro _ | split | rfl

theorem giveWidth_keeps {P : State → Prop} (hP : Cover P) (s : State) (old new : TrackSet) (position : Pos)
    (hs : P s) :
    P (giveWidth s old new position) := by
  unfold giveWidth
  try dsimp only
  repeat' first
    | with_reducible assumption | with_reducible apply changeCause_keeps hP | exact fun h => h | intro _ | split

theorem checkWidth_keeps {P : State → Prop} (hP : Inspect P) (s : State) (h : HeldSet) (d o : EdgeResult)
    (position : Pos) (hs : P s) :
    P (checkWidth s h d o position) := by
  unfold checkWidth
  try dsimp only
  repeat' first
    | with_reducible assumption | with_reducible apply giveWidth_keeps hP.toCover | with_reducible apply hP.tracker
    | exact fun h => h | intro _ | split | rfl

theorem becomeArmed_keeps {P : State → Prop} (hP : Inspect P) (s : State) (hs : P s) : P (becomeArmed s) := by
  unfold becomeArmed
  try dsimp only
  repeat' first
    | with_reducible assumption | with_reducible apply noteLevels_keeps hP.toCover.toWatch
    | with_reducible apply passForChange_keeps hP.toCover | with_reducible apply changeCause_keeps hP.toCover
    | with_reducible apply hP.tracker | exact fun h => h | intro _ | split | rfl

theorem becomeDisarmed_keeps {P : State → Prop} (hP : Inspect P) (s : State) (hs : P s) : P (becomeDisarmed s) := by
  unfold becomeDisarmed
  try dsimp only
  repeat' first
    | with_reducible assumption | with_reducible apply noteLevels_keeps hP.toCover.toWatch
    | with_reducible apply passForChange_keeps hP.toCover | with_reducible apply changeCause_keeps hP.toCover
    | with_reducible apply giveWidth_keeps hP.toCover | with_reducible apply hP.tracker | exact fun h => h | intro _
    | split | rfl

theorem judgePresence_keeps {P : State → Prop} (hP : Inspect P) (s : State) (h : HeldSet) (present : Bool)
    (position : Pos) (hs : P s) :
    P (judgePresence s h present position) := by
  unfold judgePresence
  try dsimp only
  repeat' first
    | with_reducible assumption | with_reducible apply becomeArmed_keeps hP
    | with_reducible apply becomeDisarmed_keeps hP | with_reducible apply hP.tracker | exact fun h => h | intro _
    | split | rfl

theorem observe_keeps {P : State → Prop} (hP : Inspect P) (s : State) (h : HeldSet) (k : Nat) (d o : EdgeResult)
    (hs : P s) :
    P (observe s h k d o) := by
  unfold observe
  try dsimp only
  repeat' first
    | with_reducible assumption | with_reducible apply checkWidth_keeps hP
    | with_reducible apply judgePresence_keeps hP | with_reducible apply hP.tracker | exact fun h => h | intro _
    | split | rfl

@[simp] theorem Tracker.setSide_gantry (t : Tracker) (side : Side) (v : EdgeSide) :
    (t.setSide side v).gantry = t.gantry := by
  cases side <;> rfl

@[simp] theorem Tracker.setSide_triggerBase (t : Tracker) (side : Side) (v : EdgeSide) :
    (t.setSide side v).triggerBase = t.triggerBase := by cases side <;> rfl

@[simp] theorem Tracker.setSide_triggerCount (t : Tracker) (side : Side) (v : EdgeSide) :
    (t.setSide side v).triggerCount = t.triggerCount := by cases side <;> rfl

@[simp] theorem Tracker.setSide_gate (t : Tracker) (side : Side) (v : EdgeSide) :
    (t.setSide side v).gate = t.gate := by
  cases side <;> rfl

theorem searchSide_keeps {P : State → Prop} (hP : Inspect P) (s : State) (h : HeldSet) (i : LaneId)
    (values : List Nat)
    (side : Side) (hs : P s) : P (searchSide s h i values side) :=
  hP.tracker _ _ (Tracker.setSide_gantry _ _ _) (Tracker.setSide_triggerBase _ _ _)
    (Tracker.setSide_triggerCount _ _ _) (Tracker.setSide_gate _ _ _) hs

theorem observeFrom_keeps {P : State → Prop} (hP : Inspect P) (s : State) (h : HeldSet) (k : Nat) (side : Side)
    (own other : EdgeResult) (hs : P s) :
    P (observeFrom s h k side own other) := by
  unfold observeFrom
  try dsimp only
  repeat' first
    | with_reducible assumption | with_reducible apply dropThrough_keeps hP | with_reducible apply observe_keeps hP
    | exact fun h => h | intro _ | split

theorem pairSide_keeps {P : State → Prop} (hP : Inspect P) (s : State) (h : HeldSet) (k : Nat) (side : Side)
    (hs : P s) :
    P (pairSide s h k side) := by
  unfold pairSide
  dsimp only
  split
  · exact observeFrom_keeps hP _ _ _ _ _ _ hs
  · split
    · exact hs
    · exact hP.tracker _ _ (Tracker.setSide_gantry _ _ _) (Tracker.setSide_triggerBase _ _ _)
        (Tracker.setSide_triggerCount _ _ _) (Tracker.setSide_gate _ _ _) hs

theorem searchLine_keeps {P : State → Prop} (hP : Inspect P) (s : State) (h : HeldSet) (i : LaneId) (k : Nat)
    (values : List Nat) (hs : P s) :
    P (searchLine s h i k values) := by
  unfold searchLine
  try dsimp only
  repeat' first
    | with_reducible assumption | with_reducible apply searchSide_keeps hP
    | with_reducible apply observeFrom_keeps hP | with_reducible apply pairSide_keeps hP | exact fun h => h
    | intro _ | split

theorem settingsTracker_keeps {P : State → Prop} (hP : Calm P) (s : State) (hs : P s) : P (settingsTracker s) := by
  unfold settingsTracker
  try dsimp only
  repeat' first
    | with_reducible assumption | with_reducible apply noteLevels_keeps hP.toFire.toInspect.toCover.toWatch
    | with_reducible apply restartTriggers_keeps hP | with_reducible apply beginGate_keeps hP
    | with_reducible apply hP.rtk | exact fun h => h | intro _ | split | rfl

theorem modifyLane_keeps {P : State → Prop} (hP : Inspect P) (s : State) (i : LaneId) (f : Lane → Lane) (hs : P s) :
    P (modifyLane s i f) := by
  unfold modifyLane
  try dsimp only
  repeat' first | with_reducible assumption | with_reducible apply State.setLane_keeps hP

theorem enterLaneState_keeps {P : State → Prop} (hP : Inspect P) (s : State) (i : LaneId) (l : Lane) (hs : P s) :
    P (enterLaneState s i l) := by
  unfold enterLaneState
  try dsimp only
  repeat' first
    | with_reducible assumption | with_reducible apply noteLevels_keeps hP.toCover.toWatch
    | with_reducible apply State.setLane_keeps hP | with_reducible apply notify_keeps hP.toCover.toWatch
    | with_reducible apply followClosed_keeps hP.toCover | exact fun h => h | intro _ | split

theorem leaveInspecting_keeps {P : State → Prop} (hP : Inspect P) (s : State) (i : LaneId) (hs : P s) :
    P (leaveInspecting s i) := by
  unfold leaveInspecting
  try dsimp only
  repeat' first
    | with_reducible assumption | with_reducible apply changeCause_keeps hP.toCover
    | with_reducible apply truncateLane_keeps hP | with_reducible apply edgeLaneLeaves_keeps hP | exact fun h => h
    | intro _ | split

theorem loseLane_keeps {P : State → Prop} (hP : Inspect P) (s : State) (i : LaneId) (hs : P s) :
    P (loseLane s i) := by
  unfold loseLane
  try dsimp only
  repeat' first
    | with_reducible assumption | with_reducible apply purgeEdges_keeps hP
    | with_reducible apply enterLaneState_keeps hP | with_reducible apply leaveInspecting_keeps hP

theorem disableLane_keeps {P : State → Prop} (hP : Inspect P) (s : State) (i : LaneId) (hs : P s) :
    P (disableLane s i) := by
  unfold disableLane
  try dsimp only
  repeat' first
    | with_reducible assumption | with_reducible apply enterLaneState_keeps hP
    | with_reducible apply leaveInspecting_keeps hP

theorem enableLane_keeps {P : State → Prop} (hP : Inspect P) (s : State) (i : LaneId) (hs : P s) :
    P (enableLane s i) := by
  unfold enableLane
  try dsimp only
  repeat' first | with_reducible assumption | with_reducible apply enterLaneState_keeps hP

theorem applyEnable_keeps {P : State → Prop} (hP : Inspect P) (s : State) (i : LaneId) (hs : P s) :
    P (applyEnable s i) := by
  unfold applyEnable
  try dsimp only
  repeat' first
    | with_reducible assumption | with_reducible apply disableLane_keeps hP
    | with_reducible apply enableLane_keeps hP | exact fun h => h | intro _ | split

theorem settingsLane_keeps {P : State → Prop} (hP : Inspect P) (s : State) (i : LaneId) (hs : P s) :
    P (settingsLane s i) := by
  unfold settingsLane
  try dsimp only
  repeat' first
    | with_reducible assumption | with_reducible apply disableLane_keeps hP
    | with_reducible apply enableLane_keeps hP | exact fun h => h | intro _ | split

theorem beginTune_keeps {P : State → Prop} (hP : Inspect P) (s : State) (i : LaneId) (hs : P s) :
    P (beginTune s i) := by
  unfold beginTune
  try dsimp only
  repeat' first
    | with_reducible assumption | with_reducible apply enterLaneState_keeps hP
    | with_reducible apply leaveInspecting_keeps hP

theorem requestTune_keeps {P : State → Prop} (hP : Inspect P) (s : State) (i : LaneId) (hs : P s) :
    P (requestTune s i) := by
  unfold requestTune
  try dsimp only
  repeat' first
    | with_reducible assumption | with_reducible apply modifyLane_keeps hP | with_reducible apply beginTune_keeps hP
    | exact fun h => h | intro _ | split

theorem enterLive_keeps {P : State → Prop} (hP : Inspect P) (s : State) (i : LaneId) (hs : P s) :
    P (enterLive s i) := by
  unfold enterLive
  try dsimp only
  repeat' first
    | with_reducible assumption | with_reducible apply State.setLane_keeps hP
    | with_reducible apply changeCause_keeps hP.toCover | with_reducible apply purgeEdges_keeps hP
    | with_reducible apply enterLaneState_keeps hP

theorem acceptTune_keeps {P : State → Prop} (hP : Inspect P) (s : State) (i : LaneId) (t : Tune) (hs : P s) :
    P (acceptTune s i t) := by
  unfold acceptTune
  try dsimp only
  repeat' first
    | with_reducible assumption | with_reducible apply notify_keeps hP.toCover.toWatch
    | with_reducible apply modifyLane_keeps hP | with_reducible apply enterLive_keeps hP

theorem failTune_keeps {P : State → Prop} (hP : Inspect P) (s : State) (i : LaneId) (t : Tune) (hs : P s) :
    P (failTune s i t) := by
  unfold failTune
  try dsimp only
  repeat' first
    | with_reducible assumption | with_reducible apply notify_keeps hP.toCover.toWatch
    | with_reducible apply enterLaneState_keeps hP

theorem failCode_keeps {P : State → Prop} (hP : Inspect P) (s : State) (i : LaneId) (l : LineSettings) (t : Tune)
    (hs : P s) :
    P (failCode s i l t) := by
  unfold failCode
  try dsimp only
  repeat' first
    | with_reducible assumption | with_reducible apply modifyLane_keeps hP | with_reducible apply failTune_keeps hP
    | exact fun h => h | intro _ | split

theorem judgeDwell_keeps {P : State → Prop} (hP : Inspect P) (s : State) (i : LaneId) (hs : P s) :
    P (judgeDwell s i) := by
  unfold judgeDwell
  try dsimp only
  repeat' first
    | with_reducible assumption | with_reducible apply acceptTune_keeps hP | with_reducible apply failCode_keeps hP
    | exact fun h => h | intro _ | split

theorem testSettle_keeps {P : State → Prop} (hP : Inspect P) (s : State) (i : LaneId) (hs : P s) :
    P (testSettle s i) := by
  unfold testSettle
  try dsimp only
  repeat' first
    | with_reducible assumption | with_reducible apply modifyLane_keeps hP | with_reducible apply beginTune_keeps hP
    | with_reducible apply enterLive_keeps hP | exact fun h => h | intro _ | split

theorem testStale_keeps {P : State → Prop} (hP : Inspect P) (s : State) (i : LaneId) (hs : P s) :
    P (testStale s i) := by
  unfold testStale
  try dsimp only
  repeat' first
    | with_reducible assumption | with_reducible apply loseLane_keeps hP | exact fun h => h | intro _ | split

theorem advanceLane_keeps {P : State → Prop} (hP : Inspect P) (s : State) (i : LaneId) (hs : P s) :
    P (advanceLane s i) := by
  unfold advanceLane
  try dsimp only
  repeat' first
    | with_reducible assumption | with_reducible apply testSettle_keeps hP | with_reducible apply testStale_keeps hP

theorem overflowEvents_keeps {P : State → Prop} (hP : Watch P) (s : State) (i : LaneId) (views : List (List Run))
    (hs : P s) :
    P (overflowEvents s i views) := by
  unfold overflowEvents
  try dsimp only
  repeat' first
    | with_reducible assumption | with_reducible apply tallyEvent_keeps hP | with_reducible apply foldl_keeps
    | exact fun h => h | intro _

theorem processLine_keeps {P : State → Prop} (hP : Inspect P) (s : State) (h : HeldSet) (i : LaneId) (k : Nat)
    (hs : P s) :
    P (processLine s h i k) := by
  unfold processLine
  try dsimp only
  repeat' first
    | with_reducible assumption | with_reducible apply handOver_keeps hP | with_reducible apply searchLine_keeps hP
    | with_reducible apply modifyLane_keeps hP | with_reducible apply overflowEvents_keeps hP.toCover.toWatch

theorem adoptSet_keeps {P : State → Prop} (hP : Inspect P) (s : State) (h : HeldSet) (i : LaneId) (hs : P s) :
    P (adoptSet s h i) := by
  unfold adoptSet
  try dsimp only
  repeat' first | with_reducible assumption | with_reducible apply modifyLane_keeps hP

theorem endBadRun_keeps {P : State → Prop} (hP : Inspect P) (s : State) (i : LaneId) (k : Nat) (hs : P s) :
    P (endBadRun s i k) := by
  unfold endBadRun
  try dsimp only
  repeat' first
    | with_reducible assumption | with_reducible apply giveGap_keeps hP.toCover
    | with_reducible apply modifyLane_keeps hP | exact fun h => h | intro _ | split

theorem completeLine_keeps {P : State → Prop} (hP : Inspect P) (s : State) (i : LaneId) (k : Nat) (hs : P s) :
    P (completeLine s i k) := by
  unfold completeLine
  try dsimp only
  repeat' first
    | with_reducible assumption | with_reducible apply handOver_keeps hP | with_reducible apply modifyLane_keeps hP
    | with_reducible apply processLine_keeps hP | with_reducible apply adoptSet_keeps hP
    | with_reducible apply endBadRun_keeps hP | exact fun h => h | intro _ | split

theorem loseLine_keeps {P : State → Prop} (hP : Inspect P) (s : State) (i : LaneId) (k : Nat) (hs : P s) :
    P (loseLine s i k) := by
  unfold loseLine
  try dsimp only
  repeat' first
    | with_reducible assumption | with_reducible apply handOver_keeps hP | with_reducible apply modifyLane_keeps hP

theorem judgeWindow_keeps {P : State → Prop} (hP : Inspect P) (s : State) (i : LaneId) (hs : P s) :
    P (judgeWindow s i) := by
  unfold judgeWindow
  try dsimp only
  repeat' first
    | with_reducible assumption | with_reducible apply enterLaneState_keeps hP | exact fun h => h | intro _ | split

theorem workLine_keeps {P : State → Prop} (hP : Inspect P) (s : State) (i : LaneId) (k : Nat) (fate : LineFate)
    (hs : P s) :
    P (workLine s i k fate) := by
  unfold workLine
  try dsimp only
  repeat' first
    | with_reducible assumption | with_reducible apply tallyEvent_keeps hP.toCover.toWatch
    | with_reducible apply completeLine_keeps hP | with_reducible apply loseLine_keeps hP | exact fun h => h
    | intro _ | split

theorem passLine_keeps {P : State → Prop} (hP : Inspect P) (s : State) (i : LaneId) (k : Nat) (hs : P s) :
    P (passLine s i k) := by
  unfold passLine
  try dsimp only
  repeat' first
    | with_reducible assumption | with_reducible apply followClosed_keeps hP.toCover
    | with_reducible apply purgeEdges_keeps hP | with_reducible apply modifyLane_keeps hP

theorem closeLine_keeps {P : State → Prop} (hP : Inspect P) (s : State) (i : LaneId) (fate : LineFate) (hs : P s) :
    P (closeLine s i fate) := by
  unfold closeLine
  try dsimp only
  repeat' first
    | with_reducible assumption | with_reducible apply requestTune_keeps hP
    | with_reducible apply judgeDwell_keeps hP | with_reducible apply testSettle_keeps hP
    | with_reducible apply judgeWindow_keeps hP | with_reducible apply workLine_keeps hP
    | with_reducible apply passLine_keeps hP | exact fun h => h | intro _ | split

theorem closeMissing_keeps {P : State → Prop} (hP : Inspect P) (i : LaneId) (target : Nat) :
    ∀ (n : Nat) (r : State × Nat), P r.1 → P (closeMissing i target n r).1 := by
  intro n
  induction n with
  | zero => intro r hs; exact hs
  | succ n ih =>
    intro r hs
    unfold closeMissing
    split
    · split
      · exact ih _ (closeLine_keeps hP _ _ _ hs)
      · exact hs
    · exact hs

theorem closeUpTo_keeps {P : State → Prop} (hP : Inspect P) (s : State) (i : LaneId) (target d : Nat) (hs : P s) :
    P (closeUpTo s i target d) := by
  have h1 : P (if (!(s.lane i).assembly.isEmpty) = true then closeMissing i target (d - 1) (closeLine s i .dropped,
      0)
      else closeMissing i target d (s, 0)).1 := by
    split
    · exact closeMissing_keeps hP _ _ _ _ (closeLine_keeps hP _ _ _ hs)
    · exact closeMissing_keeps hP _ _ _ _ hs
  exact ite_keeps _ (tallyEvent_keeps hP.toCover.toWatch _ _ _ _ h1) h1

theorem countHeaderError_keeps {P : State → Prop} (hP : Inspect P) (s : State) (i : LaneId) (hs : P s) :
    P (countHeaderError s i) := by
  unfold countHeaderError
  try dsimp only
  repeat' first | with_reducible assumption | with_reducible apply modifyLane_keeps hP

theorem countPayloadError_keeps {P : State → Prop} (hP : Inspect P) (s : State) (i : LaneId) (hs : P s) :
    P (countPayloadError s i) := by
  unfold countPayloadError
  try dsimp only
  repeat' first | with_reducible assumption | with_reducible apply modifyLane_keeps hP

theorem countStale_keeps {P : State → Prop} (hP : Inspect P) (s : State) (i : LaneId) (hs : P s) :
    P (countStale s i) := by
  unfold countStale
  try dsimp only
  repeat' first | with_reducible assumption | with_reducible apply modifyLane_keeps hP

theorem spoilLine_keeps {P : State → Prop} (hP : Inspect P) (s : State) (i : LaneId) (hs : P s) :
    P (spoilLine s i) := by
  unfold spoilLine
  try dsimp only
  repeat' first | with_reducible assumption | with_reducible apply modifyLane_keeps hP

theorem enterView_keeps {P : State → Prop} (hP : Inspect P) (s : State) (i : LaneId) (v : View)
    (pixels : Option (List Nat)) (hs : P s) :
    P (enterView s i v pixels) := by
  unfold enterView
  try dsimp only
  repeat' first
    | with_reducible assumption | with_reducible apply modifyLane_keeps hP | with_reducible apply closeLine_keeps hP
    | with_reducible apply countStale_keeps hP | exact fun h => h | intro _ | split

theorem followPacket_keeps {P : State → Prop} (hP : Inspect P) (s : State) (i : LaneId) (e n : Nat) (v : View)
    (pixels : Option (List Nat)) (hs : P s) :
    P (followPacket s i e n v pixels) := by
  unfold followPacket
  try dsimp only
  repeat' first
    | with_reducible assumption | with_reducible apply closeUpTo_keeps hP
    | with_reducible apply countHeaderError_keeps hP | with_reducible apply countPayloadError_keeps hP
    | with_reducible apply countStale_keeps hP | with_reducible apply spoilLine_keeps hP
    | with_reducible apply enterView_keeps hP | exact fun h => h | intro _ | split

theorem acquire_keeps {P : State → Prop} (hP : Inspect P) (s : State) (i : LaneId) (n : Nat) (v : View)
    (pixels : List Nat) (hs : P s) :
    P (acquire s i n v pixels) := by
  unfold acquire
  try dsimp only
  repeat' first
    | with_reducible assumption | with_reducible apply purgeEdges_keeps hP
    | with_reducible apply enterLaneState_keeps hP | with_reducible apply countStale_keeps hP | exact fun h => h
    | intro _ | split

theorem receivePacket_keeps {P : State → Prop} (hP : Inspect P) (s : State) (i : LaneId) (bytes : List Byte)
    (hs : P s) :
    P (receivePacket s i bytes) := by
  unfold receivePacket
  try dsimp only
  repeat' first
    | with_reducible assumption | with_reducible apply countHeaderError_keeps hP
    | with_reducible apply countPayloadError_keeps hP | with_reducible apply spoilLine_keeps hP
    | with_reducible apply followPacket_keeps hP | with_reducible apply acquire_keeps hP | exact fun h => h
    | intro _ | split

theorem takeLaneSection_keeps {P : State → Prop} (hP : Stable P) (s : State) (mask tune : BitVec 12) (hs : P s) :
    P (takeLaneSection s mask tune) := by
  unfold takeLaneSection
  try dsimp only
  repeat' first
    | with_reducible assumption | with_reducible apply applyEnable_keeps hP.toCalm.toFire.toInspect
    | with_reducible apply requestTune_keeps hP.toCalm.toFire.toInspect | with_reducible apply foldl_keeps
    | with_reducible apply hP.laneMask

theorem changeCurrentLine_keeps {P : State → Prop} (hP : Stable P) (s : State) (n : Nat) (f : BookLine → BookLine)
    (hs : P s) :
    P (changeCurrentLine s n f) := by
  unfold changeCurrentLine
  try dsimp only
  repeat' first | with_reducible assumption | with_reducible apply hP.sst | exact fun h => h | intro _ | split | rfl

theorem acceptEdit_quiet (s : State) (sec : RequestSection) (edit : BitVec 32) : s.xch.Quiet (acceptEdit s sec edit).xch :=
  ⟨rfl, rfl, rfl, fun id => by cases id <;> exact ⟨rfl, fun h => h⟩⟩

theorem applyAmendment_keeps {P : State → Prop} (hP : Stable P) (s : State) (a : Amendment) (hs : P s) :
    P (applyAmendment s a) := by
  unfold applyAmendment
  try dsimp only
  repeat' first
    | with_reducible assumption | with_reducible apply changeCurrentLine_keeps hP
    | with_reducible apply hP.accept | exact Or.inr (Or.inr rfl)

theorem applyPending_keeps {P : State → Prop} (hP : Stable P) (s : State) (hs : P s) : P (applyPending s) := by
  unfold applyPending
  try dsimp only
  repeat' first
    | with_reducible assumption | with_reducible apply applyAmendment_keeps hP | with_reducible apply foldl_keeps
    | with_reducible apply hP.cpl | exact fun h => h

theorem takeAmendment_keeps {P : State → Prop} (hP : Stable P) (s : State) (target : BitVec 32) (a : Amendment)
    (hs : P s) :
    P (takeAmendment s target a) := by
  unfold takeAmendment
  try dsimp only
  repeat' first
    | with_reducible assumption | with_reducible apply notify_keeps hP.toCalm.toFire.toInspect.toCover.toWatch
    | with_reducible apply applyAmendment_keeps hP | with_reducible apply hP.cpl | exact fun h => h | intro _
    | split

theorem occupancyEvent_keeps {P : State → Prop} (hP : Watch P) (s : State) (hs : P s) : P (occupancyEvent s) := by
  unfold occupancyEvent
  try dsimp only
  repeat' first | with_reducible assumption | with_reducible apply tallyEvent_keeps hP

theorem plateEvents_keeps {P : State → Prop} (hP : Watch P) (n : Nat) (s : State) (p : Plate) (hs : P s) :
    P (plateEvents n s p) := by
  unfold plateEvents
  try dsimp only
  repeat' first
    | with_reducible assumption | with_reducible apply tallyEvent_keeps hP | exact fun h => h | intro _ | split

theorem creditOrder_keeps {P : State → Prop} (hP : Stable P) (s : State) (d : Decision) (hs : P s) :
    P (creditOrder s d) := by
  unfold creditOrder
  try dsimp only
  repeat' first
    | with_reducible assumption | with_reducible apply changeCurrentLine_keeps hP
    | with_reducible apply plateEvents_keeps hP.toCalm.toFire.toInspect.toCover.toWatch
    | with_reducible apply foldl_keeps | exact fun h => h | intro _ | split

theorem enterSegment_keeps {P : State → Prop} (hP : Stable P) (s : State) (v : PlanView) (d : Decision) (stop : Pos)
    (hs : P s) : P (enterSegment s v d stop) :=
  occupancyEvent_keeps hP.toCalm.toFire.toInspect.toCover.toWatch _ (creditOrder_keeps hP _ _ (handCut_keeps hP _ _ _
    (hP.cpl _ _ (fun _ => nextSerial_ne_zero _) hs)))

theorem notifyRunout_keeps {P : State → Prop} (hP : Watch P) (s : State) (start : Bool) (hs : P s) :
    P (notifyRunout s start) := by
  unfold notifyRunout
  try dsimp only
  repeat' first | with_reducible assumption | with_reducible apply notifyWith_keeps hP

theorem beginRunout_keeps {P : State → Prop} (hP : Stable P) (s : State) (hs : P s) : P (beginRunout s) := by
  unfold beginRunout
  try dsimp only
  repeat' first
    | with_reducible assumption | with_reducible apply notifyRunout_keeps hP.toCalm.toFire.toInspect.toCover.toWatch
    | with_reducible apply hP.cpl | exact fun h => h

theorem endRunout_keeps {P : State → Prop} (hP : Stable P) (s : State) (after : PlannerState) (hs : P s) :
    P (endRunout s after) := by
  unfold endRunout
  try dsimp only
  repeat' first
    | with_reducible assumption | with_reducible apply notifyRunout_keeps hP.toCalm.toFire.toInspect.toCover.toWatch
    | with_reducible apply hP.cpl | exact fun h => h | intro _ | split

theorem enterRunoutCut_keeps {P : State → Prop} (hP : Stable P) (s : State) (position : Pos) (hs : P s) :
    P (enterRunoutCut s position) := by
  unfold enterRunoutCut
  try dsimp only
  repeat' first
    | with_reducible assumption | with_reducible apply tallyEvent_keeps hP.toCalm.toFire.toInspect.toCover.toWatch
    | with_reducible apply handCut_keeps hP
    | with_reducible apply occupancyEvent_keeps hP.toCalm.toFire.toInspect.toCover.toWatch
    | with_reducible apply hP.cpl | exact fun h => h

theorem reportOldest_keeps {P : State → Prop} (hP : Fire P) (s : State) (due : reportDue s = true) (hs : P s) :
    P (reportOldest s) := by
  unfold reportOldest
  unfold reportDue at due
  split
  · next g rest hq =>
    rw [hq] at due
    simp only [Bool.and_eq_true] at due
    exact writeRecords_keeps hP.toInspect.toCover.toWatch _ .plate _ due.2 (segmentRecords_length_le g)
      (hP.queue _ _ (by rw [hq]; exact Nat.le_succ _) hs)
  · exact hs

theorem reportUpTo_keeps {P : State → Prop} (hP : Fire P) : ∀ (n : Nat) (s : State), P s → P (reportUpTo n s) := by
  intro n
  induction n with
  | zero => intro s hs; exact hs
  | succ n ih =>
    intro s hs
    unfold reportUpTo
    split
    · next due => exact ih _ (reportOldest_keeps hP _ due hs)
    · exact hs

theorem reportSegments_keeps {P : State → Prop} (hP : Fire P) (s : State) (hs : P s) : P (reportSegments s) :=
  reportUpTo_keeps hP _ _ hs

theorem startPlanner_keeps {P : State → Prop} (hP : Stable P) (s : State) (hs : P s) : P (startPlanner s) := by
  unfold startPlanner
  try dsimp only
  repeat' first
    | with_reducible assumption | with_reducible apply handCut_keeps hP | with_reducible apply hP.cpl
    | exact fun h => h | intro _ | split

theorem clearStep_keeps {P : State → Prop} (hP : Stable P) (s : State) (hs : P s) : P (clearStep s) :=
  hP.cpl _ _ (fun h => h) hs

theorem drainPlanner_keeps {P : State → Prop} (hP : Stable P) (s : State) (hs : P s) : P (drainPlanner s) := by
  unfold drainPlanner
  try dsimp only
  repeat' first
    | with_reducible assumption | with_reducible apply applyPending_keeps hP
    | with_reducible apply endRunout_keeps hP | with_reducible apply clearStep_keeps hP

theorem stopPlanner_keeps {P : State → Prop} (hP : Stable P) (s : State) (hs : P s) : P (stopPlanner s) := by
  unfold stopPlanner
  try dsimp only
  repeat' first | with_reducible assumption | with_reducible apply hP.cpl | exact fun h => h

theorem putSnapshot_keeps {P : State → Prop} (hP : Stable P) (s : State) (due : snapshotDue s = true) (hs : P s) :
    P (putSnapshot s) := by
  unfold putSnapshot
  simp only [snapshotDue, Bool.and_eq_true] at due
  split
  · next p _ =>
    exact raiseCause_keeps hP.toCalm.toFire.toInspect.toCover.toWatch _ _
        (writeRecords_keeps hP.toCalm.toFire.toInspect.toCover.toWatch _ .notice _ due.2
      (fun r hr => by rw [List.mem_singleton.mp hr]; exact noticeRecord_length_le _ _ _ _) (hP.tly _ _ hs))
  · exact hs

theorem takeShift_keeps {P : State → Prop} (hP : Stable P) (s : State) (hs : P s) : P (takeShift s) := by
  unfold takeShift
  try dsimp only
  repeat' first | with_reducible assumption | with_reducible apply hP.tly

theorem offerSnapshot_keeps {P : State → Prop} (hP : Stable P) (s : State) (hs : P s) : P (offerSnapshot s) := by
  unfold offerSnapshot
  split
  · next due => exact putSnapshot_keeps hP _ due hs
  · exact hs

theorem testShift_keeps {P : State → Prop} (hP : Stable P) (s : State) (hs : P s) : P (testShift s) := by
  unfold testShift
  try dsimp only
  repeat' first
    | with_reducible assumption | with_reducible apply takeShift_keeps hP
    | with_reducible apply offerSnapshot_keeps hP | exact fun h => h | intro _ | split

theorem offerPending_keeps {P : State → Prop} (hP : Stable P) (s : State) (hs : P s) : P (offerPending s) := by
  unfold offerPending
  split
  · next due => exact testShift_keeps hP _ (putSnapshot_keeps hP _ due hs)
  · exact hs

theorem configureTallies_keeps {P : State → Prop} (hP : Stable P) (s : State) (t : TallySection) (hs : P s) :
    P (configureTallies s t) := by
  unfold configureTallies
  try dsimp only
  repeat' first | with_reducible assumption | with_reducible apply hP.tly

theorem takeTallySection_keeps {P : State → Prop} (hP : Stable P) (s : State) (t : TallySection) (hs : P s) :
    P (takeTallySection s t) := by
  unfold takeTallySection
  try dsimp only
  repeat' first
    | with_reducible assumption | with_reducible apply testShift_keeps hP
    | with_reducible apply configureTallies_keeps hP | with_reducible apply hP.tly

theorem changeRun_keeps {P : State → Prop} (hP : Stable P) (s : State) (run : RunState) (hs : P s) :
    P (changeRun s run) := by
  unfold changeRun
  try dsimp only
  repeat' first
    | with_reducible assumption | with_reducible apply raiseCause_keeps hP.toCalm.toFire.toInspect.toCover.toWatch
    | with_reducible apply notify_keeps hP.toCalm.toFire.toInspect.toCover.toWatch | with_reducible apply hP.sst
    | exact fun h => h | intro _ | split | rfl

theorem enterRunning_keeps {P : State → Prop} (hP : Stable P) (s : State) (hs : P s) : P (enterRunning s) := by
  unfold enterRunning
  try dsimp only
  repeat' first
    | with_reducible assumption | with_reducible apply startCoverage_keeps hP.toCalm.toFire.toInspect.toCover
    | with_reducible apply startPlanner_keeps hP | with_reducible apply changeRun_keeps hP

theorem testRun_keeps {P : State → Prop} (hP : Stable P) (s : State) (hs : P s) : P (testRun s) := by
  unfold testRun
  try dsimp only
  repeat' first
    | with_reducible assumption | with_reducible apply enterRunning_keeps hP | exact fun h => h | intro _ | split

theorem notifyAccepted_keeps {P : State → Prop} (hP : Watch P) (s : State) (edit : BitVec 32) (h : HeldSet)
    (place : Option (Pos × Pos)) (clamped : List Nat) (hs : P s) :
    P (notifyAccepted s edit h place clamped) := by
  unfold notifyAccepted
  try dsimp only
  repeat' first | with_reducible assumption | with_reducible apply notify_keeps hP

theorem acceptSet_keeps {P : State → Prop} (hP : Stable P) (s : State) (edit : BitVec 32) (r : RawSet) (hs : P s) :
    P (acceptSet s edit r) := by
  unfold acceptSet
  dsimp only
  split
  · exact testRun_keeps hP _
          (hP.accept _ _ _ (Or.inr (Or.inl rfl)) (notifyAccepted_keeps hP.toCalm.toFire.toInspect.toCover.toWatch _ _ _ _ _
      (hP.sst _ _ rfl rfl (fun _ => nextSerial_ne_zero _) hs)))
  · exact followClosed_keeps hP.toCalm.toFire.toInspect.toCover _
          (hP.accept _ _ _ (Or.inr (Or.inl rfl)) (notifyAccepted_keeps hP.toCalm.toFire.toInspect.toCover.toWatch _ _ _ _ _
      (hP.sst _ _ rfl rfl (fun _ => nextSerial_ne_zero _) hs)))

theorem refuseSet_keeps {P : State → Prop} (hP : Watch P) (s : State) (edit : BitVec 32) (number : Nat)
    (f : ImageRefusal) (hs : P s) :
    P (refuseSet s edit number f) := by
  unfold refuseSet
  try dsimp only
  repeat' first | with_reducible assumption | with_reducible apply notify_keeps hP

theorem actOnSet_keeps {P : State → Prop} (hP : Stable P) (s : State) (w : WaitingSection) (hs : P s) :
    P (actOnSet s w) := by
  unfold actOnSet
  try dsimp only
  repeat' first
    | with_reducible assumption | with_reducible apply acceptSet_keeps hP
    | with_reducible apply refuseSet_keeps hP.toCalm.toFire.toInspect.toCover.toWatch | exact fun h => h | intro _
    | split

theorem passSet_keeps {P : State → Prop} (hP : Stable P) (s : State) (w : WaitingSection) (hs : P s) :
    P (passSet s w) := by
  unfold passSet
  try dsimp only
  repeat' first
    | with_reducible assumption | with_reducible apply actOnSet_keeps hP | with_reducible apply hP.sst
    | exact fun h => h | intro _ | split | rfl

theorem actOnWaitingSet_keeps {P : State → Prop} (hP : Stable P) (s : State) (hold : SetHold) (hs : P s) :
    P (actOnWaitingSet s hold) := by
  unfold actOnWaitingSet
  try dsimp only
  repeat' first
    | with_reducible assumption | with_reducible apply passSet_keeps hP | exact fun h => h | intro _ | split

theorem takeNext_keeps {P : State → Prop} (hP : Stable P) (s : State) (hs : P s) : P (takeNext s) := by
  unfold takeNext
  try dsimp only
  repeat' first
    | with_reducible assumption | with_reducible apply tallyEvent_keeps hP.toCalm.toFire.toInspect.toCover.toWatch
    | with_reducible apply notify_keeps hP.toCalm.toFire.toInspect.toCover.toWatch
    | with_reducible apply actOnWaitingSet_keeps hP | with_reducible apply hP.cov | with_reducible apply hP.sst
    | exact fun h => h | intro _ | split | rfl

/-- Settings that pass R145 place journals of admitted capacities. -/
theorem checkSettings_capacities {l : LineSettings} (h : checkSettings l = none) :
    l.flawPlace.capacity ∈ journalCapacities ∧ l.platePlace.capacity ∈ journalCapacities ∧
      l.noticePlace.capacity ∈ journalCapacities := by
  unfold checkSettings at h
  dsimp only at h
  split at h; · cases h
  split at h; · cases h
  split at h; · cases h
  split at h; · cases h
  split at h; · cases h
  split at h; · cases h
  split at h; · cases h
  next hb =>
    simp only [LineSettings.places, List.filter_cons, List.filter_nil, List.getElem?_cons_zero,
      List.getElem?_cons_succ] at hb
    simp only [← List.contains_iff_mem]
    refine ⟨?_, ?_, ?_⟩ <;>
    · by_contra hc
      simp only [Bool.not_eq_true] at hc
      rcases Bool.eq_false_or_eq_true (journalCapacities.contains l.flawPlace.capacity) with h0 | h0 <;>
      rcases Bool.eq_false_or_eq_true (journalCapacities.contains l.platePlace.capacity) with h1 | h1 <;>
      rcases Bool.eq_false_or_eq_true (journalCapacities.contains l.noticePlace.capacity) with h2 | h2 <;>
      simp only [h0, h1, h2] at hb hc <;> simp at hb hc

theorem Journal.bounded_placed (j : Journal) {p : JournalPlace} (h : p.capacity ∈ journalCapacities) :
    (j.placed p).bounded := by
  intro q hq
  simp only [Journal.placed, Option.some.injEq] at hq
  subst hq
  exact ⟨by simp [Journal.unread, Journal.placed], h⟩

theorem placeSettings_keeps {P : State → Prop} (hP : Whole P) (s : State) (m : ExchangeMemory) (image : Nat)
    (ok : checkSettings (readSettings m image).value = none) (hs : P s) :
    P (placeSettings s (readSettings m image).value) := hP.place s m image ok hs

theorem takeSettings_keeps {P : State → Prop} (hP : Whole P) (s : State) (edit : BitVec 32) (m : ExchangeMemory)
    (image : Nat) (ok : checkSettings (readSettings m image).value = none) (hs : P s) :
    P (takeSettings s edit (readSettings m image)) := by
  unfold takeSettings
  dsimp only
  refine offerPending_keeps hP.toStable _
      (reportSegments_keeps hP.toStable.toCalm.toFire _ (settingsMarks_keeps hP.toStable.toCalm.toFire.toInspect _
    (foldl_keeps (fun s x h => settingsLane_keeps hP.toStable.toCalm.toFire.toInspect s x h) _ _
        (settingsTracker_keeps hP.toStable.toCalm _
      (hP.toStable.accept _ _ _ (Or.inl rfl) (notify_keeps hP.toStable.toCalm.toFire.toInspect.toCover.toWatch _ _ _
          (releaseFlaws_keeps hP.toStable.toCalm.toFire.toInspect _ (placeSettings_keeps hP _ _ _ ok hs))))))))

theorem refuseSettings_keeps {P : State → Prop} (hP : Watch P) (s : State) (edit : BitVec 32) (f : ImageRefusal)
    (hs : P s) :
    P (refuseSettings s edit f) := by
  unfold refuseSettings
  try dsimp only
  repeat' first | with_reducible assumption | with_reducible apply notify_keeps hP

theorem actOnSettings_keeps {P : State → Prop} (hP : Whole P) (s : State) (w : WaitingSection) (hs : P s) :
    P (actOnSettings s w) := by
  unfold actOnSettings
  dsimp only
  split
  · split
    · next ok =>
      exact testRun_keeps hP.toStable _
        (actOnWaitingSet_keeps hP.toStable _ _
          (takeSettings_keeps hP _ _ _ _ ok (hP.waiting _ _ hs)))
    · exact refuseSettings_keeps hP.toStable.toCalm.toFire.toInspect.toCover.toWatch _ _ _ (hP.waiting _ _ hs)
  · exact refuseSettings_keeps hP.toStable.toCalm.toFire.toInspect.toCover.toWatch _ _ _ (hP.waiting _ _ hs)

theorem passSettings_keeps {P : State → Prop} (hP : Whole P) (s : State) (w : WaitingSection) (hs : P s) :
    P (passSettings s w) := by
  unfold passSettings
  try dsimp only
  repeat' first
    | with_reducible assumption | with_reducible apply actOnSettings_keeps hP | with_reducible apply hP.waiting
    | exact fun h => h | intro _ | split

theorem stopBlocks_keeps {P : State → Prop} (hP : Stable P) (s : State) (hs : P s) : P (stopBlocks s) :=
  noteLevels_keeps hP.toCalm.toFire.toInspect.toCover.toWatch _
      (changeRun_keeps hP _ _ (hP.fas _ _ (fun h => ⟨h.1, Nat.zero_le _⟩)
    (stopCoverage_keeps hP.toCalm.toFire.toInspect.toCover _ (stopPlanner_keeps hP _ hs))))

theorem actOnWaitingSettings_keeps {P : State → Prop} (hP : Whole P) (s : State) (hs : P s) :
    P (actOnWaitingSettings s) := by
  unfold actOnWaitingSettings
  try dsimp only
  repeat' first
    | with_reducible assumption | with_reducible apply actOnSettings_keeps hP | exact fun h => h | intro _ | split

theorem haltRun_keeps {P : State → Prop} (hP : Whole P) (s : State) (hs : P s) : P (haltRun s) := by
  unfold haltRun
  try dsimp only
  repeat' first
    | with_reducible assumption | with_reducible apply testRun_keeps hP.toStable
    | with_reducible apply actOnWaitingSet_keeps hP.toStable | with_reducible apply stopBlocks_keeps hP.toStable
    | with_reducible apply actOnWaitingSettings_keeps hP

theorem drainRun_keeps {P : State → Prop} (hP : Whole P) (s : State) (hs : P s) : P (drainRun s) := by
  unfold drainRun
  try dsimp only
  repeat' first
    | with_reducible assumption
    | with_reducible apply followClosed_keeps hP.toStable.toCalm.toFire.toInspect.toCover
    | with_reducible apply truncateLane_keeps hP.toStable.toCalm.toFire.toInspect
    | with_reducible apply drainPlanner_keeps hP.toStable | with_reducible apply changeRun_keeps hP.toStable
    | with_reducible apply haltRun_keeps hP | with_reducible apply foldl_keeps | exact fun h => h | intro _ | split

theorem passRun_keeps {P : State → Prop} (hP : Passed P) (s : State) (edit : BitVec 32) (run : Bool) (hs : P s) :
    P (passRun s edit run) := by
  unfold passRun
  try dsimp only
  repeat' first
    | with_reducible assumption | with_reducible apply hP.acceptAny
    | with_reducible apply testRun_keeps hP.toStable | with_reducible apply drainRun_keeps hP.toWhole
    | with_reducible apply hP.sst | exact fun h => h | intro _ | split | rfl

theorem takeNextAt_keeps {P : State → Prop} (hP : Stable P) (s : State) (hs : P s) : P (takeNextAt s) := by
  unfold takeNextAt
  try dsimp only
  repeat' first
    | with_reducible assumption | with_reducible apply takeNext_keeps hP | exact fun h => h | intro _ | split

theorem setStep_keeps {P : State → Prop} (hP : Stable P) (s : State) (p : PlanProgress) (hs : P s) : P (setStep s p) :=
  hP.cpl _ _ (fun h => h) hs

theorem openRunout_keeps {P : State → Prop} (hP : Stable P) (s : State) (v : PlanView) (hs : P s) :
    P (openRunout s v) :=
  setStep_keeps hP _ _ (ite_keeps _ (beginRunout_keeps hP _ hs) hs)

theorem openGrading_keeps {P : State → Prop} (hP : Stable P) (s : State) (v : PlanView) (hs : P s) :
    P (openGrading s v) :=
  setStep_keeps hP _ _ (ite_keeps _ (endRunout_keeps hP _ _ hs) hs)

theorem workStep_keeps {P : State → Prop} (hP : Stable P) (s : State) (v : PlanView) (hs : P s) : P (workStep s v) :=
  ite_keeps _ hs (ite_keeps _ (ite_keeps _ (openRunout_keeps hP _ _ hs) hs) (openGrading_keeps hP _ _ hs))

theorem openStep_keeps {P : State → Prop} (hP : Stable P) (s : State) (hs : P s) : P (openStep s) := by
  have h := takeNextAt_keeps hP _ (applyPending_keeps hP s hs)
  unfold openStep
  dsimp only
  split
  · exact workStep_keeps hP _ _ h
  · exact h

theorem closeStep_keeps {P : State → Prop} (hP : Stable P) (s : State) (p : PlanProgress) (hs : P s) :
    P (closeStep s p) :=
  ite_keeps _ (ite_keeps _ (enterRunoutCut_keeps hP _ _ hs) hs) (ite_keeps _ (enterSegment_keeps hP _ _ _ _ hs) hs)

theorem finishStep_keeps {P : State → Prop} (hP : Stable P) (s : State) (hs : P s) : P (finishStep s) := by
  unfold finishStep
  split
  · exact closeStep_keeps hP _ _ (clearStep_keeps hP _ hs)
  · exact hs

theorem advanceStep_keeps {P : State → Prop} (hP : Stable P) (n : Nat) (s : State) (hs : P s) :
    P (advanceStep n s) := by
  unfold advanceStep
  split
  · exact setStep_keeps hP _ _ hs
  · exact hs

theorem countTurn_keeps {P : State → Prop} (hP : Stable P) (s : State) (hs : P s) : P (countTurn s) :=
  hP.cpl _ _ (fun h => h) hs

theorem beginStep_keeps {P : State → Prop} (hP : Stable P) (pause : Option Nat) (s : State) (hs : P s) :
    P (beginStep pause s) := by
  cases pause
  · exact finishStep_keeps hP _ (openStep_keeps hP _ hs)
  · exact advanceStep_keeps hP _ _ (openStep_keeps hP _ hs)

theorem resumeStep_keeps {P : State → Prop} (hP : Stable P) (pause : Option Nat) (s : State) (p : PlanProgress)
    (hs : P s) : P (resumeStep pause s p) := by
  cases pause
  · exact finishStep_keeps hP _ hs
  · exact ite_keeps _ (finishStep_keeps hP _ hs) (advanceStep_keeps hP _ _ hs)

theorem makePlanStep_keeps {P : State → Prop} (hP : Stable P) (s : State) (hs : P s) : P (makePlanStep s) := by
  unfold makePlanStep
  dsimp only
  split
  · exact beginStep_keeps hP _ _ (countTurn_keeps hP _ hs)
  · exact resumeStep_keeps hP _ _ _ (countTurn_keeps hP _ hs)

theorem badReadCount_keeps {P : State → Prop} (hP : Polled P) (s : State) (id : JournalId) (j : Journal)
    (value : BitVec 32)
    (hp : j.place = (s.xch.journal id).place) (hj : (s.xch.journal id).bounded → j.bounded) (hs : P s) : P
        (badReadCount s id j value) :=
  notify_keeps hP.toStable.toCalm.toFire.toInspect.toCover.toWatch _ _ _
      (setLastFault_keeps hP.toStable.toCalm.toFire.toInspect.toCover.toWatch _ _ (raiseCause_keeps
      hP.toStable.toCalm.toFire.toInspect.toCover.toWatch _ _
    (hP.xch _ _ (Exchange.quiet_setJournal _ _ _ hp hj) hs)))

theorem offerRoom_keeps {P : State → Prop} (hP : Stable P) (s : State) (id : JournalId) (hs : P s) :
    P (offerRoom s id) := by
  cases id
  · exact hs
  · exact reportSegments_keeps hP.toCalm.toFire _ hs
  · exact offerPending_keeps hP _ hs

theorem takeReadCount_keeps {P : State → Prop} (hP : Polled P) (s : State) (id : JournalId) (hs : P s) :
    P (takeReadCount s id) := by
  unfold takeReadCount
  dsimp only
  split
  · exact hs
  · split
    · next hn =>
      refine hP.xch _ _ (Exchange.quiet_setJournal _ _ _ rfl fun _ p hp => ?_) hs
      rw [hn] at hp; cases hp
    · next p hp =>
      split
      · next valid =>
        refine offerRoom_keeps hP.toStable _ _ (hP.xch _ _ (Exchange.quiet_setJournal _ _ _ rfl fun hb q hq => ?_) hs)
        simp only [hp, Option.some.injEq] at hq
        subst hq
        simp only [Journal.validRead, decide_eq_true_eq] at valid
        exact ⟨valid, (hb p hp).2⟩
      · exact badReadCount_keeps hP _ _ _ _ rfl (fun h => h) hs

theorem actOnSection_keeps {P : State → Prop} (hP : Passed P) (s : State) (sec : RequestSection) (edit : BitVec 32)
    (hs : P s) :
    P (actOnSection s sec edit) := by
  unfold actOnSection
  try dsimp only
  repeat' first
    | with_reducible assumption | with_reducible apply takeHold_keeps hP.toStable
    | with_reducible apply takeLaneSection_keeps hP.toStable | with_reducible apply hP.acceptAny
    | with_reducible apply takeAmendment_keeps hP.toStable | with_reducible apply takeTallySection_keeps hP.toStable
    | with_reducible apply passSet_keeps hP.toStable | with_reducible apply passSettings_keeps hP.toWhole
    | with_reducible apply passRun_keeps hP | exact fun h => h | intro _ | split

theorem seeEdit_keeps {P : State → Prop} (hP : Polled P) (s : State) (sec : RequestSection) (edit : BitVec 32)
    (hs : P s) : P (seeEdit s sec edit) :=
  hP.xch _ _ ⟨rfl, rfl, rfl, fun id => by cases id <;> exact ⟨rfl, fun h => h⟩⟩ hs

theorem passSection_keeps {P : State → Prop} (hP : Polled P) (s : State) (sec : RequestSection) (hs : P s) :
    P (passSection s sec) := by
  unfold passSection
  try dsimp only
  repeat' first
    | with_reducible assumption | with_reducible apply actOnSection_keeps hP.toPassed
    | with_reducible apply seeEdit_keeps hP | exact fun h => h | intro _ | split

theorem baselineEdit_keeps {P : State → Prop} (hP : Polled P) (s : State) (sec : RequestSection) (hs : P s) :
    P (baselineEdit s sec) := by
  unfold baselineEdit
  try dsimp only
  repeat' first
    | with_reducible assumption | with_reducible apply hP.acceptAny | with_reducible apply seeEdit_keeps hP

theorem baselineRead_keeps {P : State → Prop} (hP : Polled P) (s : State) (id : JournalId) (hs : P s) :
    P (baselineRead s id) :=
  hP.xch _ _ (Exchange.quiet_setJournal _ _ _ rfl fun h => h) hs

theorem takeBaselines_keeps {P : State → Prop} (hP : Polled P) (s : State) (hs : P s) : P (takeBaselines s) :=
  hP.xch _ _ (Exchange.quiet_firstPoll _ _)
    (foldl_keeps (fun s x h => baselineEdit_keeps hP s x h) _ _ (foldl_keeps (fun s x h => baselineRead_keeps hP s x
        h) _ _ hs))

theorem markBytes_length_le (s : State) : (markBytes s).length ≤ Config.blockSize := layout_length_le _ _

theorem rewriteMarks_keeps {P : State → Prop} (hP : Watch P) (s : State) (hs : P s) : P (rewriteMarks s) := by
  refine hP.mem _ _ (fun h => ExchangeMemory.writeBytes_wf _ _ _ h)
      (ExchangeMemory.writeBytes_generation _ _ _) ?_ hs
  intro a ha
  refine ExchangeMemory.read_writeBytes_other _ _ _ ?_
  have := markBytes_length_le s
  have out : ¬ (Config.markBlock ≤ a ∧ a < Config.markBlock + Config.blockSize) := fun h => ha (Or.inl h)
  omega

theorem workRequests_keeps {P : State → Prop} (hP : Polled P) (s : State) (hs : P s) : P (workRequests s) := by
  unfold workRequests
  split
  · exact takeBaselines_keeps hP _ hs
  · exact foldl_keeps (fun s x h => passSection_keeps hP s x h) _ _
      (foldl_keeps (fun s x h => takeReadCount_keeps hP s x h) _ _ hs)

theorem restartTimer_keeps {P : State → Prop} (hP : Polled P) (s : State) (hs : P s) : P (restartTimer s) :=
  hP.xch _ _ ⟨rfl, rfl, rfl, fun id => by cases id <;> exact ⟨rfl, fun h => h⟩⟩ hs

/-- A poll keeps every stable property. -/
theorem poll_keeps {P : State → Prop} (hP : Polled P) (s : State) (hs : P s) : P (poll s) :=
  rewriteMarks_keeps hP.toStable.toCalm.toFire.toInspect.toCover.toWatch _
      (restartTimer_keeps hP _ (workRequests_keeps hP _ hs))

theorem setExpiry_keeps {P : State → Prop} (hP : Polled P) (s : State) (due : Bool) (hs : P s) : P (setExpiry s due) :=
  hP.xch _ _ ⟨rfl, rfl, rfl, fun id => by cases id <;> exact ⟨rfl, fun h => h⟩⟩ hs

theorem promptPoll_keeps {P : State → Prop} (hP : Polled P) (s : State) (hs : P s) : P (promptPoll s) :=
  poll_keeps hP _ (setExpiry_keeps hP _ _ hs)

theorem timerPoll_keeps {P : State → Prop} (hP : Polled P) (s : State) (hs : P s) : P (timerPoll s) :=
  poll_keeps hP _ (setExpiry_keeps hP _ _ hs)

end Sys2Proof.Machine
end

