-- ==== Sys2Proof/Laws/Commands.lean ====
section
/-!
SUPPORT. What every command and every step keeps: a property of kind `Polled` that the passing of time, the advance of the
gantry position, the computer's writes and the resets keep as well is kept by `exec` and by `step`.
-/
namespace Sys2Proof.Machine

/-- A property that every event keeps. -/
structure Every (P : State → Prop) : Prop extends Polled P where
  time : ∀ s n, P s → P (elapse s n)
  gantry : ∀ s v, P s → P (s.setRtk { s.rtk with gantry := v })
  writes : ∀ s written, P s → P (receiveWrites s written)
  attention : ∀ s attn en, P s → P (s.setXch (s.xch.setAttention attn en))
  control : ∀ s, P s → P (controlReset s)
  power : ∀ s, P s → P (powerUp s)

theorem countGlass_keeps {P : State → Prop} (hP : Watch P) (s : State) (hs : P s) : P (countGlass s) := by
  unfold countGlass
  exact ite_keeps _ (tallyEvent_keeps hP _ _ _ _ hs) hs

/-- What an advance does after the trigger point and the gate counter: the releases, the firing tests, the lanes and the
LEVEL counters. -/
theorem afterTriggers_keeps {P : State → Prop} (hP : Fire P) (s : State) (hs : P s) :
    P (advanceLevels (purgeEdges (allLanes.foldl advanceLane (testOutputs (releaseStretches (releaseFlaws s)))))) := by
  have hI := hP.toInspect
  have h2 := testOutputs_keeps hP _ (releaseStretches_keeps hI.toCover _ (releaseFlaws_keeps hI _ hs))
  have h3 := foldl_keeps (fun s x h => advanceLane_keeps hI s x h) allLanes _ h2
  exact advanceLevels_keeps hI.toCover.toWatch _ (purgeEdges_keeps hI _ h3)

/-- What an advance leads to keeps every calm property. -/
theorem followAdvance_keeps {P : State → Prop} (hP : Calm P) (s : State) (hs : P s) : P (followAdvance s) := by
  have hW := hP.toFire.toInspect.toCover.toWatch
  exact afterTriggers_keeps hP.toFire _ (countStep_keeps hP _ (issueTrigger_keeps hP _ (countGlass_keeps hW _ hs)))

/-- A FORWARD_STEP keeps a calm property that holds once the gantry position has advanced. -/
theorem execForwardStep_keeps {P : State → Prop} (hP : Calm P) (s t : State) (h : execForwardStep s = .next t)
    (hs : P ((settleGate s).setRtk { (settleGate s).rtk with gantry := (settleGate s).rtk.gantry + 1 })) : P t := by
  cases h
  exact followAdvance_keeps hP _ (followClosed_keeps hP.toFire.toInspect.toCover _ hs)

theorem afterWait_keeps {P : State → Prop} (hP : Every P) {event : State → State} (he : ∀ s, P s → P (event s))
    (s : State) (n : Nat) (hs : P s) : P (afterWait s n event) := by
  unfold afterWait
  exact ite_keeps _ (he _ (hP.time _ _ hs)) hs

theorem whenDue_keeps {P : State → Prop} {event : State → State} (s : State) (due : Bool)
    (he : due = true → P (event s)) (hs : P s) : P (whenDue s due event) := by
  unfold whenDue
  split
  · next h => exact he h
  · exact hs

theorem writeCtrl_keeps {P : State → Prop} (hP : Every P) (s : State) (value : BitVec 32) (hs : P s) :
    P (writeCtrl s value) := by
  unfold writeCtrl
  have h1 := ite_keeps (value.getLsbD 0 = true) (hP.control _ hs) hs
  exact ite_keeps _ (promptPoll_keeps hP.toPolled _ h1) h1

/-- Every command keeps such a property. -/
theorem exec_keeps {P : State → Prop} (hP : Every P) (c : Instr) (s t : State) (h : exec c s = .next t) (hs : P s) :
    P t := by
  have hW := hP.toWhole
  have hS := hW.toStable
  have hC := hS.toCalm
  have hF := hC.toFire
  have hI := hF.toInspect
  cases c with
  | powerOn => cases h; exact hP.power _ hs
  | reset value written => cases h; exact writeCtrl_keeps hP _ _ (finishStep_keeps hS _ (hP.writes _ _ hs))
  | prompt value written => cases h; exact writeCtrl_keeps hP _ _ (finishStep_keeps hS _ (hP.writes _ _ hs))
  | attnWrite value => cases h; exact hP.attention _ _ _ hs
  | attnEnWrite value => cases h; exact hP.attention _ _ _ hs
  | ignoredRegisterWrite register value => cases h; exact hs
  | forwardStep => exact execForwardStep_keeps hC s t h (hP.gantry _ _ (settleGate_keeps hC _ hs))
  | reverseStep => cases h; exact tallyEvent_keeps hI.toCover.toWatch _ _ _ _ hs
  | rlePulse => cases h; exact countPulse_keeps hC _ (settleGate_keeps hC _ hs)
  | gatePhaseEnd => cases h; exact whenDue_keeps _ _ (fun _ => endGate_keeps hC _ hs) hs
  | stall => cases h; exact ite_keeps _ (afterWait_keeps hP (fun s h => doStall_keeps hC s h) _ _ hs) hs
  | slipPhaseEnd => cases h; exact ite_keeps _ (afterWait_keeps hP (fun s h => endSlip_keeps hC s h) _ _ hs) hs
  | slipOver => cases h; exact whenDue_keeps _ _ (fun _ => overflowSlip_keeps hC _ hs) hs
  | linePacket lane bytes => cases h; exact receivePacket_keeps hI _ _ _ hs
  | pulseEnd => cases h; exact ite_keeps _ (afterWait_keeps hP (fun s h => endPulse_keeps hF s h) _ _ hs) hs
  | gapEnd => cases h; exact ite_keeps _ (afterWait_keeps hP (fun s h => endGap_keeps hF s h) _ _ hs) hs
  | nozzlePulseEnd nozzle =>
    cases h; exact ite_keeps _ (afterWait_keeps hP (fun s h => endNozzle_keeps hF s _ h) _ _ hs) hs
  | pollTimerExpiry written =>
    cases h
    exact afterWait_keeps hP (fun s h => timerPoll_keeps hP.toPolled _ (finishStep_keeps hS s h)) _ _ (hP.writes _ _ hs)
  | enterHalted written =>
    cases h
    have h1 := hP.writes s written hs
    exact whenDue_keeps _ _ (fun _ => haltRun_keeps hW _ h1) h1
  | planStep written =>
    cases h
    have h1 := hP.writes s written hs
    exact whenDue_keeps _ _ (fun _ => makePlanStep_keeps hS _ h1) h1
  | segmentReport =>
    cases h
    have h1 := finishStep_keeps hS s hs
    exact whenDue_keeps _ _ (fun due => reportOldest_keeps hF _ due h1) h1
  | snapshotWrite => cases h; exact whenDue_keeps _ _ (fun _ => offerPending_keeps hS _ hs) hs

/-- What the part does of itself keeps such a property. -/
theorem internalStep_keeps {P : State → Prop} (hP : Every P) (s : State) (hs : P s) : P (internalStep s) := by
  have hW := hP.toWhole
  have hS := hW.toStable
  have hC := hS.toCalm
  have hF := hC.toFire
  unfold internalStep
  repeat' first
    | with_reducible apply endGate_keeps hC
    | with_reducible apply doStall_keeps hC
    | with_reducible apply endSlip_keeps hC
    | with_reducible apply endPulse_keeps hF
    | with_reducible apply endGap_keeps hF
    | with_reducible apply endNozzle_keeps hF
    | with_reducible apply haltRun_keeps hW
    | with_reducible apply offerPending_keeps hS
    | with_reducible apply makePlanStep_keeps hS
    | with_reducible apply timerPoll_keeps hP.toPolled
    | with_reducible apply hP.time
    | exact reportOldest_keeps hF _ (by assumption) hs
    | with_reducible assumption
    | split

/-- Every step keeps such a property, if taking a command from the queue does. -/
theorem step_keeps {P : State → Prop} (hP : Every P) (queue : ∀ s v, P s → P (s.setPending v)) : Invariant P := by
  intro s t hs h
  unfold StepsTo step at h
  split at h
  · cases h; exact internalStep_keeps hP _ hs
  · exact exec_keeps hP _ _ _ h (queue _ _ hs)

/-- No command changes the queue. -/
theorem exec_pending (c : Instr) (s t : State) (h : exec c s = .next t) : t.pending = s.pending := by
  refine exec_keeps (P := fun x => x.pending = s.pending) ?_ c s t h rfl
  refine ⟨⟨⟨⟨⟨⟨⟨⟨⟨⟨?_, ?_, ?_, ?_, ?_⟩, ?_⟩, ?_, ?_, ?_, ?_⟩, ?_, ?_⟩, ?_⟩, ?_, ?_, ?_, ?_, ?_, ?_⟩, ?_, ?_⟩, ?_⟩, ?_⟩,
    ?_, ?_, ?_, ?_, ?_, ?_⟩ <;>
    intros <;> assumption

end Sys2Proof.Machine
end

