-- ==== Sys2Proof/Laws/Frames.lean ====
section
/-!
SUPPORT. What the low operations leave alone. The journals, the notices, the tallies, the outputs and the stretch
operations each touch few blocks of the part: one lemma for each block that an operation leaves as it is.
-/
namespace Sys2Proof.Machine

theorem foldl_frame {α β : Type} (get : State → β) {f : State → α → State} (hf : ∀ s x, get (f s x) = get s) :
    ∀ (l : List α) (s : State), get (l.foldl f s) = get s := by
  intro l
  induction l with
  | nil => intro s; rfl
  | cons x rest ih => intro s; simp only [List.foldl_cons]; rw [ih, hf]

@[simp] theorem raiseCause_pending (s : State) (c : AttnCause) : (raiseCause s c).pending = s.pending := by
  unfold raiseCause
  try dsimp only
  rfl

@[simp] theorem raiseCause_timeBase (s : State) (c : AttnCause) : (raiseCause s c).timeBase = s.timeBase := by
  unfold raiseCause
  try dsimp only
  rfl

@[simp] theorem raiseCause_rtk (s : State) (c : AttnCause) : (raiseCause s c).rtk = s.rtk := by
  unfold raiseCause
  try dsimp only
  rfl

@[simp] theorem raiseCause_laneMask (s : State) (c : AttnCause) : (raiseCause s c).laneMask = s.laneMask := by
  unfold raiseCause
  try dsimp only
  rfl

@[simp] theorem raiseCause_lanes (s : State) (c : AttnCause) : (raiseCause s c).lanes = s.lanes := by
  unfold raiseCause
  try dsimp only
  rfl

@[simp] theorem raiseCause_fas (s : State) (c : AttnCause) : (raiseCause s c).fas = s.fas := by
  unfold raiseCause
  try dsimp only
  rfl

@[simp] theorem raiseCause_cov (s : State) (c : AttnCause) : (raiseCause s c).cov = s.cov := by
  unfold raiseCause
  try dsimp only
  rfl

@[simp] theorem raiseCause_cpl (s : State) (c : AttnCause) : (raiseCause s c).cpl = s.cpl := by
  unfold raiseCause
  try dsimp only
  rfl

@[simp] theorem raiseCause_out (s : State) (c : AttnCause) : (raiseCause s c).out = s.out := by
  unfold raiseCause
  try dsimp only
  rfl

@[simp] theorem raiseCause_tly (s : State) (c : AttnCause) : (raiseCause s c).tly = s.tly := by
  unfold raiseCause
  try dsimp only
  rfl

@[simp] theorem raiseCause_sst (s : State) (c : AttnCause) : (raiseCause s c).sst = s.sst := by
  unfold raiseCause
  try dsimp only
  rfl

@[simp] theorem raiseCause_mem (s : State) (c : AttnCause) : (raiseCause s c).mem = s.mem := by
  unfold raiseCause
  try dsimp only
  rfl

@[simp] theorem raiseCauseIf_pending (s : State) (p : Bool) (c : AttnCause) :
    (raiseCauseIf s p c).pending = s.pending := by
  unfold raiseCauseIf
  try dsimp only
  repeat' first | rfl | split

@[simp] theorem raiseCauseIf_timeBase (s : State) (p : Bool) (c : AttnCause) :
    (raiseCauseIf s p c).timeBase = s.timeBase := by
  unfold raiseCauseIf
  try dsimp only
  repeat' first | rfl | split

@[simp] theorem raiseCauseIf_rtk (s : State) (p : Bool) (c : AttnCause) : (raiseCauseIf s p c).rtk = s.rtk := by
  unfold raiseCauseIf
  try dsimp only
  repeat' first | rfl | split

@[simp] theorem raiseCauseIf_laneMask (s : State) (p : Bool) (c : AttnCause) :
    (raiseCauseIf s p c).laneMask = s.laneMask := by
  unfold raiseCauseIf
  try dsimp only
  repeat' first | rfl | split

@[simp] theorem raiseCauseIf_lanes (s : State) (p : Bool) (c : AttnCause) : (raiseCauseIf s p c).lanes = s.lanes := by
  unfold raiseCauseIf
  try dsimp only
  repeat' first | rfl | split

@[simp] theorem raiseCauseIf_fas (s : State) (p : Bool) (c : AttnCause) : (raiseCauseIf s p c).fas = s.fas := by
  unfold raiseCauseIf
  try dsimp only
  repeat' first | rfl | split

@[simp] theorem raiseCauseIf_cov (s : State) (p : Bool) (c : AttnCause) : (raiseCauseIf s p c).cov = s.cov := by
  unfold raiseCauseIf
  try dsimp only
  repeat' first | rfl | split

@[simp] theorem raiseCauseIf_cpl (s : State) (p : Bool) (c : AttnCause) : (raiseCauseIf s p c).cpl = s.cpl := by
  unfold raiseCauseIf
  try dsimp only
  repeat' first | rfl | split

@[simp] theorem raiseCauseIf_out (s : State) (p : Bool) (c : AttnCause) : (raiseCauseIf s p c).out = s.out := by
  unfold raiseCauseIf
  try dsimp only
  repeat' first | rfl | split

@[simp] theorem raiseCauseIf_tly (s : State) (p : Bool) (c : AttnCause) : (raiseCauseIf s p c).tly = s.tly := by
  unfold raiseCauseIf
  try dsimp only
  repeat' first | rfl | split

@[simp] theorem raiseCauseIf_sst (s : State) (p : Bool) (c : AttnCause) : (raiseCauseIf s p c).sst = s.sst := by
  unfold raiseCauseIf
  try dsimp only
  repeat' first | rfl | split

@[simp] theorem raiseCauseIf_mem (s : State) (p : Bool) (c : AttnCause) : (raiseCauseIf s p c).mem = s.mem := by
  unfold raiseCauseIf
  try dsimp only
  repeat' first | rfl | split

@[simp] theorem addTallies_pending (s : State) (gain : Counter → Nat) : (addTallies s gain).pending = s.pending := by
  unfold addTallies
  try dsimp only
  repeat' first | rfl | simp | split

@[simp] theorem addTallies_timeBase (s : State) (gain : Counter → Nat) :
    (addTallies s gain).timeBase = s.timeBase := by
  unfold addTallies
  try dsimp only
  repeat' first | rfl | simp | split

@[simp] theorem addTallies_rtk (s : State) (gain : Counter → Nat) : (addTallies s gain).rtk = s.rtk := by
  unfold addTallies
  try dsimp only
  repeat' first | rfl | simp | split

@[simp] theorem addTallies_laneMask (s : State) (gain : Counter → Nat) :
    (addTallies s gain).laneMask = s.laneMask := by
  unfold addTallies
  try dsimp only
  repeat' first | rfl | simp | split

@[simp] theorem addTallies_lanes (s : State) (gain : Counter → Nat) : (addTallies s gain).lanes = s.lanes := by
  unfold addTallies
  try dsimp only
  repeat' first | rfl | simp | split

@[simp] theorem addTallies_fas (s : State) (gain : Counter → Nat) : (addTallies s gain).fas = s.fas := by
  unfold addTallies
  try dsimp only
  repeat' first | rfl | simp | split

@[simp] theorem addTallies_cov (s : State) (gain : Counter → Nat) : (addTallies s gain).cov = s.cov := by
  unfold addTallies
  try dsimp only
  repeat' first | rfl | simp | split

@[simp] theorem addTallies_cpl (s : State) (gain : Counter → Nat) : (addTallies s gain).cpl = s.cpl := by
  unfold addTallies
  try dsimp only
  repeat' first | rfl | simp | split

@[simp] theorem addTallies_out (s : State) (gain : Counter → Nat) : (addTallies s gain).out = s.out := by
  unfold addTallies
  try dsimp only
  repeat' first | rfl | simp | split

@[simp] theorem addTallies_sst (s : State) (gain : Counter → Nat) : (addTallies s gain).sst = s.sst := by
  unfold addTallies
  try dsimp only
  repeat' first | rfl | simp | split

@[simp] theorem addTallies_mem (s : State) (gain : Counter → Nat) : (addTallies s gain).mem = s.mem := by
  unfold addTallies
  try dsimp only
  repeat' first | rfl | simp | split

@[simp] theorem tallyEvent_pending (s : State) (kind : TallyKind) (selector : Nat) (magnitude : Option Nat) :
    (tallyEvent s kind selector magnitude).pending = s.pending := by
  unfold tallyEvent
  try dsimp only
  repeat' first | rfl | simp

@[simp] theorem tallyEvent_timeBase (s : State) (kind : TallyKind) (selector : Nat) (magnitude : Option Nat) :
    (tallyEvent s kind selector magnitude).timeBase = s.timeBase := by
  unfold tallyEvent
  try dsimp only
  repeat' first | rfl | simp

@[simp] theorem tallyEvent_rtk (s : State) (kind : TallyKind) (selector : Nat) (magnitude : Option Nat) :
    (tallyEvent s kind selector magnitude).rtk = s.rtk := by
  unfold tallyEvent
  try dsimp only
  repeat' first | rfl | simp

@[simp] theorem tallyEvent_laneMask (s : State) (kind : TallyKind) (selector : Nat) (magnitude : Option Nat) :
    (tallyEvent s kind selector magnitude).laneMask = s.laneMask := by
  unfold tallyEvent
  try dsimp only
  repeat' first | rfl | simp

@[simp] theorem tallyEvent_lanes (s : State) (kind : TallyKind) (selector : Nat) (magnitude : Option Nat) :
    (tallyEvent s kind selector magnitude).lanes = s.lanes := by
  unfold tallyEvent
  try dsimp only
  repeat' first | rfl | simp

@[simp] theorem tallyEvent_fas (s : State) (kind : TallyKind) (selector : Nat) (magnitude : Option Nat) :
    (tallyEvent s kind selector magnitude).fas = s.fas := by
  unfold tallyEvent
  try dsimp only
  repeat' first | rfl | simp

@[simp] theorem tallyEvent_cov (s : State) (kind : TallyKind) (selector : Nat) (magnitude : Option Nat) :
    (tallyEvent s kind selector magnitude).cov = s.cov := by
  unfold tallyEvent
  try dsimp only
  repeat' first | rfl | simp

@[simp] theorem tallyEvent_cpl (s : State) (kind : TallyKind) (selector : Nat) (magnitude : Option Nat) :
    (tallyEvent s kind selector magnitude).cpl = s.cpl := by
  unfold tallyEvent
  try dsimp only
  repeat' first | rfl | simp

@[simp] theorem tallyEvent_out (s : State) (kind : TallyKind) (selector : Nat) (magnitude : Option Nat) :
    (tallyEvent s kind selector magnitude).out = s.out := by
  unfold tallyEvent
  try dsimp only
  repeat' first | rfl | simp

@[simp] theorem tallyEvent_sst (s : State) (kind : TallyKind) (selector : Nat) (magnitude : Option Nat) :
    (tallyEvent s kind selector magnitude).sst = s.sst := by
  unfold tallyEvent
  try dsimp only
  repeat' first | rfl | simp

@[simp] theorem tallyEvent_mem (s : State) (kind : TallyKind) (selector : Nat) (magnitude : Option Nat) :
    (tallyEvent s kind selector magnitude).mem = s.mem := by
  unfold tallyEvent
  try dsimp only
  repeat' first | rfl | simp

@[simp] theorem noteLevels_pending (s : State) : (noteLevels s).pending = s.pending := by
  unfold noteLevels
  try dsimp only
  repeat' first | rfl | simp

@[simp] theorem noteLevels_timeBase (s : State) : (noteLevels s).timeBase = s.timeBase := by
  unfold noteLevels
  try dsimp only
  repeat' first | rfl | simp

@[simp] theorem noteLevels_rtk (s : State) : (noteLevels s).rtk = s.rtk := by
  unfold noteLevels
  try dsimp only
  repeat' first | rfl | simp

@[simp] theorem noteLevels_laneMask (s : State) : (noteLevels s).laneMask = s.laneMask := by
  unfold noteLevels
  try dsimp only
  repeat' first | rfl | simp

@[simp] theorem noteLevels_lanes (s : State) : (noteLevels s).lanes = s.lanes := by
  unfold noteLevels
  try dsimp only
  repeat' first | rfl | simp

@[simp] theorem noteLevels_fas (s : State) : (noteLevels s).fas = s.fas := by
  unfold noteLevels
  try dsimp only
  repeat' first | rfl | simp

@[simp] theorem noteLevels_cov (s : State) : (noteLevels s).cov = s.cov := by
  unfold noteLevels
  try dsimp only
  repeat' first | rfl | simp

@[simp] theorem noteLevels_cpl (s : State) : (noteLevels s).cpl = s.cpl := by
  unfold noteLevels
  try dsimp only
  repeat' first | rfl | simp

@[simp] theorem noteLevels_out (s : State) : (noteLevels s).out = s.out := by
  unfold noteLevels
  try dsimp only
  repeat' first | rfl | simp

@[simp] theorem noteLevels_sst (s : State) : (noteLevels s).sst = s.sst := by
  unfold noteLevels
  try dsimp only
  repeat' first | rfl | simp

@[simp] theorem noteLevels_mem (s : State) : (noteLevels s).mem = s.mem := by
  unfold noteLevels
  try dsimp only
  repeat' first | rfl | simp

@[simp] theorem advanceLevels_pending (s : State) : (advanceLevels s).pending = s.pending := by
  unfold advanceLevels
  try dsimp only
  repeat' first | rfl | simp

@[simp] theorem advanceLevels_timeBase (s : State) : (advanceLevels s).timeBase = s.timeBase := by
  unfold advanceLevels
  try dsimp only
  repeat' first | rfl | simp

@[simp] theorem advanceLevels_rtk (s : State) : (advanceLevels s).rtk = s.rtk := by
  unfold advanceLevels
  try dsimp only
  repeat' first | rfl | simp

@[simp] theorem advanceLevels_laneMask (s : State) : (advanceLevels s).laneMask = s.laneMask := by
  unfold advanceLevels
  try dsimp only
  repeat' first | rfl | simp

@[simp] theorem advanceLevels_lanes (s : State) : (advanceLevels s).lanes = s.lanes := by
  unfold advanceLevels
  try dsimp only
  repeat' first | rfl | simp

@[simp] theorem advanceLevels_fas (s : State) : (advanceLevels s).fas = s.fas := by
  unfold advanceLevels
  try dsimp only
  repeat' first | rfl | simp

@[simp] theorem advanceLevels_cov (s : State) : (advanceLevels s).cov = s.cov := by
  unfold advanceLevels
  try dsimp only
  repeat' first | rfl | simp

@[simp] theorem advanceLevels_cpl (s : State) : (advanceLevels s).cpl = s.cpl := by
  unfold advanceLevels
  try dsimp only
  repeat' first | rfl | simp

@[simp] theorem advanceLevels_out (s : State) : (advanceLevels s).out = s.out := by
  unfold advanceLevels
  try dsimp only
  repeat' first | rfl | simp

@[simp] theorem advanceLevels_sst (s : State) : (advanceLevels s).sst = s.sst := by
  unfold advanceLevels
  try dsimp only
  repeat' first | rfl | simp

@[simp] theorem advanceLevels_mem (s : State) : (advanceLevels s).mem = s.mem := by
  unfold advanceLevels
  try dsimp only
  repeat' first | rfl | simp

@[simp] theorem writeRecords_pending (s : State) (id : JournalId) (records : List (List Byte)) :
    (writeRecords s id records).pending = s.pending := by
  unfold writeRecords
  try dsimp only
  repeat' first | rfl | (simp; done) | split

@[simp] theorem writeRecords_timeBase (s : State) (id : JournalId) (records : List (List Byte)) :
    (writeRecords s id records).timeBase = s.timeBase := by
  unfold writeRecords
  try dsimp only
  repeat' first | rfl | (simp; done) | split

@[simp] theorem writeRecords_rtk (s : State) (id : JournalId) (records : List (List Byte)) :
    (writeRecords s id records).rtk = s.rtk := by
  unfold writeRecords
  try dsimp only
  repeat' first | rfl | (simp; done) | split

@[simp] theorem writeRecords_laneMask (s : State) (id : JournalId) (records : List (List Byte)) :
    (writeRecords s id records).laneMask = s.laneMask := by
  unfold writeRecords
  try dsimp only
  repeat' first | rfl | (simp; done) | split

@[simp] theorem writeRecords_lanes (s : State) (id : JournalId) (records : List (List Byte)) :
    (writeRecords s id records).lanes = s.lanes := by
  unfold writeRecords
  try dsimp only
  repeat' first | rfl | (simp; done) | split

@[simp] theorem writeRecords_fas (s : State) (id : JournalId) (records : List (List Byte)) :
    (writeRecords s id records).fas = s.fas := by
  unfold writeRecords
  try dsimp only
  repeat' first | rfl | (simp; done) | split

@[simp] theorem writeRecords_cov (s : State) (id : JournalId) (records : List (List Byte)) :
    (writeRecords s id records).cov = s.cov := by
  unfold writeRecords
  try dsimp only
  repeat' first | rfl | (simp; done) | split

@[simp] theorem writeRecords_cpl (s : State) (id : JournalId) (records : List (List Byte)) :
    (writeRecords s id records).cpl = s.cpl := by
  unfold writeRecords
  try dsimp only
  repeat' first | rfl | (simp; done) | split

@[simp] theorem writeRecords_out (s : State) (id : JournalId) (records : List (List Byte)) :
    (writeRecords s id records).out = s.out := by
  unfold writeRecords
  try dsimp only
  repeat' first | rfl | (simp; done) | split

@[simp] theorem writeRecords_tly (s : State) (id : JournalId) (records : List (List Byte)) :
    (writeRecords s id records).tly = s.tly := by
  unfold writeRecords
  try dsimp only
  repeat' first | rfl | (simp; done) | split

@[simp] theorem writeRecords_sst (s : State) (id : JournalId) (records : List (List Byte)) :
    (writeRecords s id records).sst = s.sst := by
  unfold writeRecords
  try dsimp only
  repeat' first | rfl | (simp; done) | split

@[simp] theorem withhold_pending (s : State) (id : JournalId) : (withhold s id).pending = s.pending := by
  unfold withhold
  try dsimp only
  repeat' first | rfl | simp

@[simp] theorem withhold_timeBase (s : State) (id : JournalId) : (withhold s id).timeBase = s.timeBase := by
  unfold withhold
  try dsimp only
  repeat' first | rfl | simp

@[simp] theorem withhold_rtk (s : State) (id : JournalId) : (withhold s id).rtk = s.rtk := by
  unfold withhold
  try dsimp only
  repeat' first | rfl | simp

@[simp] theorem withhold_laneMask (s : State) (id : JournalId) : (withhold s id).laneMask = s.laneMask := by
  unfold withhold
  try dsimp only
  repeat' first | rfl | simp

@[simp] theorem withhold_lanes (s : State) (id : JournalId) : (withhold s id).lanes = s.lanes := by
  unfold withhold
  try dsimp only
  repeat' first | rfl | simp

@[simp] theorem withhold_fas (s : State) (id : JournalId) : (withhold s id).fas = s.fas := by
  unfold withhold
  try dsimp only
  repeat' first | rfl | simp

@[simp] theorem withhold_cov (s : State) (id : JournalId) : (withhold s id).cov = s.cov := by
  unfold withhold
  try dsimp only
  repeat' first | rfl | simp

@[simp] theorem withhold_cpl (s : State) (id : JournalId) : (withhold s id).cpl = s.cpl := by
  unfold withhold
  try dsimp only
  repeat' first | rfl | simp

@[simp] theorem withhold_out (s : State) (id : JournalId) : (withhold s id).out = s.out := by
  unfold withhold
  try dsimp only
  repeat' first | rfl | simp

@[simp] theorem withhold_sst (s : State) (id : JournalId) : (withhold s id).sst = s.sst := by
  unfold withhold
  try dsimp only
  repeat' first | rfl | simp

@[simp] theorem withhold_mem (s : State) (id : JournalId) : (withhold s id).mem = s.mem := by
  unfold withhold
  try dsimp only
  repeat' first | rfl | simp

@[simp] theorem setLastFault_pending (s : State) (kind : NoticeKind) : (setLastFault s kind).pending = s.pending := by
  unfold setLastFault
  try dsimp only
  rfl

@[simp] theorem setLastFault_timeBase (s : State) (kind : NoticeKind) :
    (setLastFault s kind).timeBase = s.timeBase := by
  unfold setLastFault
  try dsimp only
  rfl

@[simp] theorem setLastFault_rtk (s : State) (kind : NoticeKind) : (setLastFault s kind).rtk = s.rtk := by
  unfold setLastFault
  try dsimp only
  rfl

@[simp] theorem setLastFault_laneMask (s : State) (kind : NoticeKind) :
    (setLastFault s kind).laneMask = s.laneMask := by
  unfold setLastFault
  try dsimp only
  rfl

@[simp] theorem setLastFault_lanes (s : State) (kind : NoticeKind) : (setLastFault s kind).lanes = s.lanes := by
  unfold setLastFault
  try dsimp only
  rfl

@[simp] theorem setLastFault_fas (s : State) (kind : NoticeKind) : (setLastFault s kind).fas = s.fas := by
  unfold setLastFault
  try dsimp only
  rfl

@[simp] theorem setLastFault_cov (s : State) (kind : NoticeKind) : (setLastFault s kind).cov = s.cov := by
  unfold setLastFault
  try dsimp only
  rfl

@[simp] theorem setLastFault_cpl (s : State) (kind : NoticeKind) : (setLastFault s kind).cpl = s.cpl := by
  unfold setLastFault
  try dsimp only
  rfl

@[simp] theorem setLastFault_out (s : State) (kind : NoticeKind) : (setLastFault s kind).out = s.out := by
  unfold setLastFault
  try dsimp only
  rfl

@[simp] theorem setLastFault_tly (s : State) (kind : NoticeKind) : (setLastFault s kind).tly = s.tly := by
  unfold setLastFault
  try dsimp only
  rfl

@[simp] theorem setLastFault_sst (s : State) (kind : NoticeKind) : (setLastFault s kind).sst = s.sst := by
  unfold setLastFault
  try dsimp only
  rfl

@[simp] theorem setLastFault_mem (s : State) (kind : NoticeKind) : (setLastFault s kind).mem = s.mem := by
  unfold setLastFault
  try dsimp only
  rfl

@[simp] theorem notifyWith_pending (s : State) (kind : NoticeKind) (urgent : Bool) (body : List (Nat × List Byte)) :
    (notifyWith s kind urgent body).pending = s.pending := by
  unfold notifyWith
  try dsimp only
  repeat' first | rfl | simp | split

@[simp] theorem notifyWith_timeBase (s : State) (kind : NoticeKind) (urgent : Bool) (body : List (Nat × List Byte)) :
    (notifyWith s kind urgent body).timeBase = s.timeBase := by
  unfold notifyWith
  try dsimp only
  repeat' first | rfl | simp | split

@[simp] theorem notifyWith_rtk (s : State) (kind : NoticeKind) (urgent : Bool) (body : List (Nat × List Byte)) :
    (notifyWith s kind urgent body).rtk = s.rtk := by
  unfold notifyWith
  try dsimp only
  repeat' first | rfl | simp | split

@[simp] theorem notifyWith_laneMask (s : State) (kind : NoticeKind) (urgent : Bool) (body : List (Nat × List Byte)) :
    (notifyWith s kind urgent body).laneMask = s.laneMask := by
  unfold notifyWith
  try dsimp only
  repeat' first | rfl | simp | split

@[simp] theorem notifyWith_lanes (s : State) (kind : NoticeKind) (urgent : Bool) (body : List (Nat × List Byte)) :
    (notifyWith s kind urgent body).lanes = s.lanes := by
  unfold notifyWith
  try dsimp only
  repeat' first | rfl | simp | split

@[simp] theorem notifyWith_fas (s : State) (kind : NoticeKind) (urgent : Bool) (body : List (Nat × List Byte)) :
    (notifyWith s kind urgent body).fas = s.fas := by
  unfold notifyWith
  try dsimp only
  repeat' first | rfl | simp | split

@[simp] theorem notifyWith_cov (s : State) (kind : NoticeKind) (urgent : Bool) (body : List (Nat × List Byte)) :
    (notifyWith s kind urgent body).cov = s.cov := by
  unfold notifyWith
  try dsimp only
  repeat' first | rfl | simp | split

@[simp] theorem notifyWith_cpl (s : State) (kind : NoticeKind) (urgent : Bool) (body : List (Nat × List Byte)) :
    (notifyWith s kind urgent body).cpl = s.cpl := by
  unfold notifyWith
  try dsimp only
  repeat' first | rfl | simp | split

@[simp] theorem notifyWith_out (s : State) (kind : NoticeKind) (urgent : Bool) (body : List (Nat × List Byte)) :
    (notifyWith s kind urgent body).out = s.out := by
  unfold notifyWith
  try dsimp only
  repeat' first | rfl | simp | split

@[simp] theorem notifyWith_sst (s : State) (kind : NoticeKind) (urgent : Bool) (body : List (Nat × List Byte)) :
    (notifyWith s kind urgent body).sst = s.sst := by
  unfold notifyWith
  try dsimp only
  repeat' first | rfl | simp | split

@[simp] theorem notify_pending (s : State) (kind : NoticeKind) (body : List (Nat × List Byte)) :
    (notify s kind body).pending = s.pending := by
  unfold notify
  try dsimp only
  repeat' first | rfl | simp

@[simp] theorem notify_timeBase (s : State) (kind : NoticeKind) (body : List (Nat × List Byte)) :
    (notify s kind body).timeBase = s.timeBase := by
  unfold notify
  try dsimp only
  repeat' first | rfl | simp

@[simp] theorem notify_rtk (s : State) (kind : NoticeKind) (body : List (Nat × List Byte)) :
    (notify s kind body).rtk = s.rtk := by
  unfold notify
  try dsimp only
  repeat' first | rfl | simp

@[simp] theorem notify_laneMask (s : State) (kind : NoticeKind) (body : List (Nat × List Byte)) :
    (notify s kind body).laneMask = s.laneMask := by
  unfold notify
  try dsimp only
  repeat' first | rfl | simp

@[simp] theorem notify_lanes (s : State) (kind : NoticeKind) (body : List (Nat × List Byte)) :
    (notify s kind body).lanes = s.lanes := by
  unfold notify
  try dsimp only
  repeat' first | rfl | simp

@[simp] theorem notify_fas (s : State) (kind : NoticeKind) (body : List (Nat × List Byte)) :
    (notify s kind body).fas = s.fas := by
  unfold notify
  try dsimp only
  repeat' first | rfl | simp

@[simp] theorem notify_cov (s : State) (kind : NoticeKind) (body : List (Nat × List Byte)) :
    (notify s kind body).cov = s.cov := by
  unfold notify
  try dsimp only
  repeat' first | rfl | simp

@[simp] theorem notify_cpl (s : State) (kind : NoticeKind) (body : List (Nat × List Byte)) :
    (notify s kind body).cpl = s.cpl := by
  unfold notify
  try dsimp only
  repeat' first | rfl | simp

@[simp] theorem notify_out (s : State) (kind : NoticeKind) (body : List (Nat × List Byte)) :
    (notify s kind body).out = s.out := by
  unfold notify
  try dsimp only
  repeat' first | rfl | simp

@[simp] theorem notify_sst (s : State) (kind : NoticeKind) (body : List (Nat × List Byte)) :
    (notify s kind body).sst = s.sst := by
  unfold notify
  try dsimp only
  repeat' first | rfl | simp

@[simp] theorem notifyStretch_pending (s : State) (action : StretchAction) (e : Stretch) (incoming : Option Cause) :
    (notifyStretch s action e incoming).pending = s.pending := by
  unfold notifyStretch
  try dsimp only
  repeat' first | rfl | simp

@[simp] theorem notifyStretch_timeBase (s : State) (action : StretchAction) (e : Stretch) (incoming : Option Cause) :
    (notifyStretch s action e incoming).timeBase = s.timeBase := by
  unfold notifyStretch
  try dsimp only
  repeat' first | rfl | simp

@[simp] theorem notifyStretch_rtk (s : State) (action : StretchAction) (e : Stretch) (incoming : Option Cause) :
    (notifyStretch s action e incoming).rtk = s.rtk := by
  unfold notifyStretch
  try dsimp only
  repeat' first | rfl | simp

@[simp] theorem notifyStretch_laneMask (s : State) (action : StretchAction) (e : Stretch) (incoming : Option Cause) :
    (notifyStretch s action e incoming).laneMask = s.laneMask := by
  unfold notifyStretch
  try dsimp only
  repeat' first | rfl | simp

@[simp] theorem notifyStretch_lanes (s : State) (action : StretchAction) (e : Stretch) (incoming : Option Cause) :
    (notifyStretch s action e incoming).lanes = s.lanes := by
  unfold notifyStretch
  try dsimp only
  repeat' first | rfl | simp

@[simp] theorem notifyStretch_fas (s : State) (action : StretchAction) (e : Stretch) (incoming : Option Cause) :
    (notifyStretch s action e incoming).fas = s.fas := by
  unfold notifyStretch
  try dsimp only
  repeat' first | rfl | simp

@[simp] theorem notifyStretch_cov (s : State) (action : StretchAction) (e : Stretch) (incoming : Option Cause) :
    (notifyStretch s action e incoming).cov = s.cov := by
  unfold notifyStretch
  try dsimp only
  repeat' first | rfl | simp

@[simp] theorem notifyStretch_cpl (s : State) (action : StretchAction) (e : Stretch) (incoming : Option Cause) :
    (notifyStretch s action e incoming).cpl = s.cpl := by
  unfold notifyStretch
  try dsimp only
  repeat' first | rfl | simp

@[simp] theorem notifyStretch_out (s : State) (action : StretchAction) (e : Stretch) (incoming : Option Cause) :
    (notifyStretch s action e incoming).out = s.out := by
  unfold notifyStretch
  try dsimp only
  repeat' first | rfl | simp

@[simp] theorem notifyStretch_sst (s : State) (action : StretchAction) (e : Stretch) (incoming : Option Cause) :
    (notifyStretch s action e incoming).sst = s.sst := by
  unfold notifyStretch
  try dsimp only
  repeat' first | rfl | simp

@[simp] theorem addEntry_pending (s : State) (inc : Incoming) : (addEntry s inc).pending = s.pending := by
  unfold addEntry
  try dsimp only
  repeat' first | rfl | simp

@[simp] theorem addEntry_timeBase (s : State) (inc : Incoming) : (addEntry s inc).timeBase = s.timeBase := by
  unfold addEntry
  try dsimp only
  repeat' first | rfl | simp

@[simp] theorem addEntry_rtk (s : State) (inc : Incoming) : (addEntry s inc).rtk = s.rtk := by
  unfold addEntry
  try dsimp only
  repeat' first | rfl | simp

@[simp] theorem addEntry_laneMask (s : State) (inc : Incoming) : (addEntry s inc).laneMask = s.laneMask := by
  unfold addEntry
  try dsimp only
  repeat' first | rfl | simp

@[simp] theorem addEntry_lanes (s : State) (inc : Incoming) : (addEntry s inc).lanes = s.lanes := by
  unfold addEntry
  try dsimp only
  repeat' first | rfl | simp

@[simp] theorem addEntry_fas (s : State) (inc : Incoming) : (addEntry s inc).fas = s.fas := by
  unfold addEntry
  try dsimp only
  repeat' first | rfl | simp

@[simp] theorem addEntry_cpl (s : State) (inc : Incoming) : (addEntry s inc).cpl = s.cpl := by
  unfold addEntry
  try dsimp only
  repeat' first | rfl | simp

@[simp] theorem addEntry_out (s : State) (inc : Incoming) : (addEntry s inc).out = s.out := by
  unfold addEntry
  try dsimp only
  repeat' first | rfl | simp

@[simp] theorem addEntry_sst (s : State) (inc : Incoming) : (addEntry s inc).sst = s.sst := by
  unfold addEntry
  try dsimp only
  repeat' first | rfl | simp

@[simp] theorem passEntry_pending (s : State) (inc : Incoming) : (passEntry s inc).pending = s.pending := by
  unfold passEntry
  try dsimp only
  repeat' first | rfl | simp

@[simp] theorem passEntry_timeBase (s : State) (inc : Incoming) : (passEntry s inc).timeBase = s.timeBase := by
  unfold passEntry
  try dsimp only
  repeat' first | rfl | simp

@[simp] theorem passEntry_rtk (s : State) (inc : Incoming) : (passEntry s inc).rtk = s.rtk := by
  unfold passEntry
  try dsimp only
  repeat' first | rfl | simp

@[simp] theorem passEntry_laneMask (s : State) (inc : Incoming) : (passEntry s inc).laneMask = s.laneMask := by
  unfold passEntry
  try dsimp only
  repeat' first | rfl | simp

@[simp] theorem passEntry_lanes (s : State) (inc : Incoming) : (passEntry s inc).lanes = s.lanes := by
  unfold passEntry
  try dsimp only
  repeat' first | rfl | simp

@[simp] theorem passEntry_fas (s : State) (inc : Incoming) : (passEntry s inc).fas = s.fas := by
  unfold passEntry
  try dsimp only
  repeat' first | rfl | simp

@[simp] theorem passEntry_cpl (s : State) (inc : Incoming) : (passEntry s inc).cpl = s.cpl := by
  unfold passEntry
  try dsimp only
  repeat' first | rfl | simp

@[simp] theorem passEntry_out (s : State) (inc : Incoming) : (passEntry s inc).out = s.out := by
  unfold passEntry
  try dsimp only
  repeat' first | rfl | simp

@[simp] theorem passEntry_sst (s : State) (inc : Incoming) : (passEntry s inc).sst = s.sst := by
  unfold passEntry
  try dsimp only
  repeat' first | rfl | simp

@[simp] theorem foldEntry_pending (s : State) (last : Stretch) (inc : Incoming) :
    (foldEntry s last inc).pending = s.pending := by
  unfold foldEntry
  try dsimp only
  repeat' first | rfl | simp

@[simp] theorem foldEntry_timeBase (s : State) (last : Stretch) (inc : Incoming) :
    (foldEntry s last inc).timeBase = s.timeBase := by
  unfold foldEntry
  try dsimp only
  repeat' first | rfl | simp

@[simp] theorem foldEntry_rtk (s : State) (last : Stretch) (inc : Incoming) : (foldEntry s last inc).rtk = s.rtk := by
  unfold foldEntry
  try dsimp only
  repeat' first | rfl | simp

@[simp] theorem foldEntry_laneMask (s : State) (last : Stretch) (inc : Incoming) :
    (foldEntry s last inc).laneMask = s.laneMask := by
  unfold foldEntry
  try dsimp only
  repeat' first | rfl | simp

@[simp] theorem foldEntry_lanes (s : State) (last : Stretch) (inc : Incoming) :
    (foldEntry s last inc).lanes = s.lanes := by
  unfold foldEntry
  try dsimp only
  repeat' first | rfl | simp

@[simp] theorem foldEntry_fas (s : State) (last : Stretch) (inc : Incoming) : (foldEntry s last inc).fas = s.fas := by
  unfold foldEntry
  try dsimp only
  repeat' first | rfl | simp

@[simp] theorem foldEntry_cpl (s : State) (last : Stretch) (inc : Incoming) : (foldEntry s last inc).cpl = s.cpl := by
  unfold foldEntry
  try dsimp only
  repeat' first | rfl | simp

@[simp] theorem foldEntry_out (s : State) (last : Stretch) (inc : Incoming) : (foldEntry s last inc).out = s.out := by
  unfold foldEntry
  try dsimp only
  repeat' first | rfl | simp

@[simp] theorem foldEntry_sst (s : State) (last : Stretch) (inc : Incoming) : (foldEntry s last inc).sst = s.sst := by
  unfold foldEntry
  try dsimp only
  repeat' first | rfl | simp

@[simp] theorem enterStretch_pending (s : State) (inc : Incoming) : (enterStretch s inc).pending = s.pending := by
  unfold enterStretch
  try dsimp only
  repeat' first | rfl | simp | split

@[simp] theorem enterStretch_timeBase (s : State) (inc : Incoming) : (enterStretch s inc).timeBase = s.timeBase := by
  unfold enterStretch
  try dsimp only
  repeat' first | rfl | simp | split

@[simp] theorem enterStretch_rtk (s : State) (inc : Incoming) : (enterStretch s inc).rtk = s.rtk := by
  unfold enterStretch
  try dsimp only
  repeat' first | rfl | simp | split

@[simp] theorem enterStretch_laneMask (s : State) (inc : Incoming) : (enterStretch s inc).laneMask = s.laneMask := by
  unfold enterStretch
  try dsimp only
  repeat' first | rfl | simp | split

@[simp] theorem enterStretch_lanes (s : State) (inc : Incoming) : (enterStretch s inc).lanes = s.lanes := by
  unfold enterStretch
  try dsimp only
  repeat' first | rfl | simp | split

@[simp] theorem enterStretch_fas (s : State) (inc : Incoming) : (enterStretch s inc).fas = s.fas := by
  unfold enterStretch
  try dsimp only
  repeat' first | rfl | simp | split

@[simp] theorem enterStretch_cpl (s : State) (inc : Incoming) : (enterStretch s inc).cpl = s.cpl := by
  unfold enterStretch
  try dsimp only
  repeat' first | rfl | simp | split

@[simp] theorem enterStretch_out (s : State) (inc : Incoming) : (enterStretch s inc).out = s.out := by
  unfold enterStretch
  try dsimp only
  repeat' first | rfl | simp | split

@[simp] theorem enterStretch_sst (s : State) (inc : Incoming) : (enterStretch s inc).sst = s.sst := by
  unfold enterStretch
  try dsimp only
  repeat' first | rfl | simp | split

@[simp] theorem closePart_pending (s : State) (oc : OpenCause) (p : Pos) :
    (closePart s oc p).pending = s.pending := by
  unfold closePart
  try dsimp only
  repeat' first | rfl | (simp; done) | split

@[simp] theorem closePart_timeBase (s : State) (oc : OpenCause) (p : Pos) :
    (closePart s oc p).timeBase = s.timeBase := by
  unfold closePart
  try dsimp only
  repeat' first | rfl | (simp; done) | split

@[simp] theorem closePart_rtk (s : State) (oc : OpenCause) (p : Pos) : (closePart s oc p).rtk = s.rtk := by
  unfold closePart
  try dsimp only
  repeat' first | rfl | (simp; done) | split

@[simp] theorem closePart_laneMask (s : State) (oc : OpenCause) (p : Pos) :
    (closePart s oc p).laneMask = s.laneMask := by
  unfold closePart
  try dsimp only
  repeat' first | rfl | (simp; done) | split

@[simp] theorem closePart_lanes (s : State) (oc : OpenCause) (p : Pos) : (closePart s oc p).lanes = s.lanes := by
  unfold closePart
  try dsimp only
  repeat' first | rfl | (simp; done) | split

@[simp] theorem closePart_fas (s : State) (oc : OpenCause) (p : Pos) : (closePart s oc p).fas = s.fas := by
  unfold closePart
  try dsimp only
  repeat' first | rfl | (simp; done) | split

@[simp] theorem closePart_cpl (s : State) (oc : OpenCause) (p : Pos) : (closePart s oc p).cpl = s.cpl := by
  unfold closePart
  try dsimp only
  repeat' first | rfl | (simp; done) | split

@[simp] theorem closePart_out (s : State) (oc : OpenCause) (p : Pos) : (closePart s oc p).out = s.out := by
  unfold closePart
  try dsimp only
  repeat' first | rfl | (simp; done) | split

@[simp] theorem closePart_sst (s : State) (oc : OpenCause) (p : Pos) : (closePart s oc p).sst = s.sst := by
  unfold closePart
  try dsimp only
  repeat' first | rfl | (simp; done) | split

@[simp] theorem openPart_pending (s : State) (oc : OpenCause) (tracks : TrackSet) (p : Pos) (lane : Option LaneId) :
    (openPart s oc tracks p lane).pending = s.pending := by
  unfold openPart
  try dsimp only
  repeat' first | rfl | (simp; done) | split

@[simp] theorem openPart_timeBase (s : State) (oc : OpenCause) (tracks : TrackSet) (p : Pos) (lane : Option LaneId) :
    (openPart s oc tracks p lane).timeBase = s.timeBase := by
  unfold openPart
  try dsimp only
  repeat' first | rfl | (simp; done) | split

@[simp] theorem openPart_rtk (s : State) (oc : OpenCause) (tracks : TrackSet) (p : Pos) (lane : Option LaneId) :
    (openPart s oc tracks p lane).rtk = s.rtk := by
  unfold openPart
  try dsimp only
  repeat' first | rfl | (simp; done) | split

@[simp] theorem openPart_laneMask (s : State) (oc : OpenCause) (tracks : TrackSet) (p : Pos) (lane : Option LaneId) :
    (openPart s oc tracks p lane).laneMask = s.laneMask := by
  unfold openPart
  try dsimp only
  repeat' first | rfl | (simp; done) | split

@[simp] theorem openPart_lanes (s : State) (oc : OpenCause) (tracks : TrackSet) (p : Pos) (lane : Option LaneId) :
    (openPart s oc tracks p lane).lanes = s.lanes := by
  unfold openPart
  try dsimp only
  repeat' first | rfl | (simp; done) | split

@[simp] theorem openPart_fas (s : State) (oc : OpenCause) (tracks : TrackSet) (p : Pos) (lane : Option LaneId) :
    (openPart s oc tracks p lane).fas = s.fas := by
  unfold openPart
  try dsimp only
  repeat' first | rfl | (simp; done) | split

@[simp] theorem openPart_cpl (s : State) (oc : OpenCause) (tracks : TrackSet) (p : Pos) (lane : Option LaneId) :
    (openPart s oc tracks p lane).cpl = s.cpl := by
  unfold openPart
  try dsimp only
  repeat' first | rfl | (simp; done) | split

@[simp] theorem openPart_out (s : State) (oc : OpenCause) (tracks : TrackSet) (p : Pos) (lane : Option LaneId) :
    (openPart s oc tracks p lane).out = s.out := by
  unfold openPart
  try dsimp only
  repeat' first | rfl | (simp; done) | split

@[simp] theorem openPart_sst (s : State) (oc : OpenCause) (tracks : TrackSet) (p : Pos) (lane : Option LaneId) :
    (openPart s oc tracks p lane).sst = s.sst := by
  unfold openPart
  try dsimp only
  repeat' first | rfl | (simp; done) | split

@[simp] theorem enterClosed_pending (s : State) (cause : Cause) (mask : Pos → TrackSet) (start stop : Pos) (lane :
    Option LaneId) : (enterClosed s cause mask start stop lane).pending = s.pending := by
  unfold enterClosed
  try dsimp only
  repeat' first | rfl | (simp; done) | split

@[simp] theorem enterClosed_timeBase (s : State) (cause : Cause) (mask : Pos → TrackSet) (start stop : Pos) (lane :
    Option LaneId) : (enterClosed s cause mask start stop lane).timeBase = s.timeBase := by
  unfold enterClosed
  try dsimp only
  repeat' first | rfl | (simp; done) | split

@[simp] theorem enterClosed_rtk (s : State) (cause : Cause) (mask : Pos → TrackSet) (start stop : Pos) (lane :
    Option LaneId) : (enterClosed s cause mask start stop lane).rtk = s.rtk := by
  unfold enterClosed
  try dsimp only
  repeat' first | rfl | (simp; done) | split

@[simp] theorem enterClosed_laneMask (s : State) (cause : Cause) (mask : Pos → TrackSet) (start stop : Pos) (lane :
    Option LaneId) : (enterClosed s cause mask start stop lane).laneMask = s.laneMask := by
  unfold enterClosed
  try dsimp only
  repeat' first | rfl | (simp; done) | split

@[simp] theorem enterClosed_lanes (s : State) (cause : Cause) (mask : Pos → TrackSet) (start stop : Pos) (lane :
    Option LaneId) : (enterClosed s cause mask start stop lane).lanes = s.lanes := by
  unfold enterClosed
  try dsimp only
  repeat' first | rfl | (simp; done) | split

@[simp] theorem enterClosed_fas (s : State) (cause : Cause) (mask : Pos → TrackSet) (start stop : Pos) (lane :
    Option LaneId) : (enterClosed s cause mask start stop lane).fas = s.fas := by
  unfold enterClosed
  try dsimp only
  repeat' first | rfl | (simp; done) | split

@[simp] theorem enterClosed_cpl (s : State) (cause : Cause) (mask : Pos → TrackSet) (start stop : Pos) (lane :
    Option LaneId) : (enterClosed s cause mask start stop lane).cpl = s.cpl := by
  unfold enterClosed
  try dsimp only
  repeat' first | rfl | (simp; done) | split

@[simp] theorem enterClosed_out (s : State) (cause : Cause) (mask : Pos → TrackSet) (start stop : Pos) (lane :
    Option LaneId) : (enterClosed s cause mask start stop lane).out = s.out := by
  unfold enterClosed
  try dsimp only
  repeat' first | rfl | (simp; done) | split

@[simp] theorem enterClosed_sst (s : State) (cause : Cause) (mask : Pos → TrackSet) (start stop : Pos) (lane :
    Option LaneId) : (enterClosed s cause mask start stop lane).sst = s.sst := by
  unfold enterClosed
  try dsimp only
  repeat' first | rfl | (simp; done) | split

@[simp] theorem giveSpill_pending (s : State) (f : Flaw) : (giveSpill s f).pending = s.pending := by
  unfold giveSpill
  try dsimp only
  repeat' first | rfl | (simp; done) | split

@[simp] theorem giveSpill_timeBase (s : State) (f : Flaw) : (giveSpill s f).timeBase = s.timeBase := by
  unfold giveSpill
  try dsimp only
  repeat' first | rfl | (simp; done) | split

@[simp] theorem giveSpill_rtk (s : State) (f : Flaw) : (giveSpill s f).rtk = s.rtk := by
  unfold giveSpill
  try dsimp only
  repeat' first | rfl | (simp; done) | split

@[simp] theorem giveSpill_laneMask (s : State) (f : Flaw) : (giveSpill s f).laneMask = s.laneMask := by
  unfold giveSpill
  try dsimp only
  repeat' first | rfl | (simp; done) | split

@[simp] theorem giveSpill_lanes (s : State) (f : Flaw) : (giveSpill s f).lanes = s.lanes := by
  unfold giveSpill
  try dsimp only
  repeat' first | rfl | (simp; done) | split

@[simp] theorem giveSpill_fas (s : State) (f : Flaw) : (giveSpill s f).fas = s.fas := by
  unfold giveSpill
  try dsimp only
  repeat' first | rfl | (simp; done) | split

@[simp] theorem giveSpill_cpl (s : State) (f : Flaw) : (giveSpill s f).cpl = s.cpl := by
  unfold giveSpill
  try dsimp only
  repeat' first | rfl | (simp; done) | split

@[simp] theorem giveSpill_out (s : State) (f : Flaw) : (giveSpill s f).out = s.out := by
  unfold giveSpill
  try dsimp only
  repeat' first | rfl | (simp; done) | split

@[simp] theorem giveSpill_sst (s : State) (f : Flaw) : (giveSpill s f).sst = s.sst := by
  unfold giveSpill
  try dsimp only
  repeat' first | rfl | (simp; done) | split

@[simp] theorem judgeHead_pending (s : State) : (judgeHead s).pending = s.pending := by
  unfold judgeHead
  try dsimp only
  repeat' first | rfl | (simp; done) | split

@[simp] theorem judgeHead_timeBase (s : State) : (judgeHead s).timeBase = s.timeBase := by
  unfold judgeHead
  try dsimp only
  repeat' first | rfl | (simp; done) | split

@[simp] theorem judgeHead_rtk (s : State) : (judgeHead s).rtk = s.rtk := by
  unfold judgeHead
  try dsimp only
  repeat' first | rfl | (simp; done) | split

@[simp] theorem judgeHead_laneMask (s : State) : (judgeHead s).laneMask = s.laneMask := by
  unfold judgeHead
  try dsimp only
  repeat' first | rfl | (simp; done) | split

@[simp] theorem judgeHead_lanes (s : State) : (judgeHead s).lanes = s.lanes := by
  unfold judgeHead
  try dsimp only
  repeat' first | rfl | (simp; done) | split

@[simp] theorem judgeHead_fas (s : State) : (judgeHead s).fas = s.fas := by
  unfold judgeHead
  try dsimp only
  repeat' first | rfl | (simp; done) | split

@[simp] theorem judgeHead_cov (s : State) : (judgeHead s).cov = s.cov := by
  unfold judgeHead
  try dsimp only
  repeat' first | rfl | (simp; done) | split

@[simp] theorem judgeHead_cpl (s : State) : (judgeHead s).cpl = s.cpl := by
  unfold judgeHead
  try dsimp only
  repeat' first | rfl | (simp; done) | split

@[simp] theorem judgeHead_tly (s : State) : (judgeHead s).tly = s.tly := by
  unfold judgeHead
  try dsimp only
  repeat' first | rfl | (simp; done) | split

@[simp] theorem judgeHead_sst (s : State) : (judgeHead s).sst = s.sst := by
  unfold judgeHead
  try dsimp only
  repeat' first | rfl | (simp; done) | split

@[simp] theorem judgeHead_xch (s : State) : (judgeHead s).xch = s.xch := by
  unfold judgeHead
  try dsimp only
  repeat' first | rfl | (simp; done) | split

@[simp] theorem judgeHead_mem (s : State) : (judgeHead s).mem = s.mem := by
  unfold judgeHead
  try dsimp only
  repeat' first | rfl | (simp; done) | split

@[simp] theorem culletCutEvent_pending (s : State) (g : Segment) : (culletCutEvent s g).pending = s.pending := by
  unfold culletCutEvent
  try dsimp only
  repeat' first | rfl | simp | split

@[simp] theorem culletCutEvent_timeBase (s : State) (g : Segment) : (culletCutEvent s g).timeBase = s.timeBase := by
  unfold culletCutEvent
  try dsimp only
  repeat' first | rfl | simp | split

@[simp] theorem culletCutEvent_rtk (s : State) (g : Segment) : (culletCutEvent s g).rtk = s.rtk := by
  unfold culletCutEvent
  try dsimp only
  repeat' first | rfl | simp | split

@[simp] theorem culletCutEvent_laneMask (s : State) (g : Segment) : (culletCutEvent s g).laneMask = s.laneMask := by
  unfold culletCutEvent
  try dsimp only
  repeat' first | rfl | simp | split

@[simp] theorem culletCutEvent_lanes (s : State) (g : Segment) : (culletCutEvent s g).lanes = s.lanes := by
  unfold culletCutEvent
  try dsimp only
  repeat' first | rfl | simp | split

@[simp] theorem culletCutEvent_fas (s : State) (g : Segment) : (culletCutEvent s g).fas = s.fas := by
  unfold culletCutEvent
  try dsimp only
  repeat' first | rfl | simp | split

@[simp] theorem culletCutEvent_cov (s : State) (g : Segment) : (culletCutEvent s g).cov = s.cov := by
  unfold culletCutEvent
  try dsimp only
  repeat' first | rfl | simp | split

@[simp] theorem culletCutEvent_cpl (s : State) (g : Segment) : (culletCutEvent s g).cpl = s.cpl := by
  unfold culletCutEvent
  try dsimp only
  repeat' first | rfl | simp | split

@[simp] theorem culletCutEvent_out (s : State) (g : Segment) : (culletCutEvent s g).out = s.out := by
  unfold culletCutEvent
  try dsimp only
  repeat' first | rfl | simp | split

@[simp] theorem culletCutEvent_sst (s : State) (g : Segment) : (culletCutEvent s g).sst = s.sst := by
  unfold culletCutEvent
  try dsimp only
  repeat' first | rfl | simp | split

@[simp] theorem culletCutEvent_mem (s : State) (g : Segment) : (culletCutEvent s g).mem = s.mem := by
  unfold culletCutEvent
  try dsimp only
  repeat' first | rfl | simp | split

@[simp] theorem cutOwner_pending (s : State) (owner : Option (BitVec 32)) (late : Bool) (lateness : Nat) :
    (cutOwner s owner late lateness).pending = s.pending := by
  unfold cutOwner
  try dsimp only
  repeat' first | rfl | (simp; done) | split

@[simp] theorem cutOwner_timeBase (s : State) (owner : Option (BitVec 32)) (late : Bool) (lateness : Nat) :
    (cutOwner s owner late lateness).timeBase = s.timeBase := by
  unfold cutOwner
  try dsimp only
  repeat' first | rfl | (simp; done) | split

@[simp] theorem cutOwner_rtk (s : State) (owner : Option (BitVec 32)) (late : Bool) (lateness : Nat) :
    (cutOwner s owner late lateness).rtk = s.rtk := by
  unfold cutOwner
  try dsimp only
  repeat' first | rfl | (simp; done) | split

@[simp] theorem cutOwner_laneMask (s : State) (owner : Option (BitVec 32)) (late : Bool) (lateness : Nat) :
    (cutOwner s owner late lateness).laneMask = s.laneMask := by
  unfold cutOwner
  try dsimp only
  repeat' first | rfl | (simp; done) | split

@[simp] theorem cutOwner_lanes (s : State) (owner : Option (BitVec 32)) (late : Bool) (lateness : Nat) :
    (cutOwner s owner late lateness).lanes = s.lanes := by
  unfold cutOwner
  try dsimp only
  repeat' first | rfl | (simp; done) | split

@[simp] theorem cutOwner_fas (s : State) (owner : Option (BitVec 32)) (late : Bool) (lateness : Nat) :
    (cutOwner s owner late lateness).fas = s.fas := by
  unfold cutOwner
  try dsimp only
  repeat' first | rfl | (simp; done) | split

@[simp] theorem cutOwner_cov (s : State) (owner : Option (BitVec 32)) (late : Bool) (lateness : Nat) :
    (cutOwner s owner late lateness).cov = s.cov := by
  unfold cutOwner
  try dsimp only
  repeat' first | rfl | (simp; done) | split

@[simp] theorem cutOwner_out (s : State) (owner : Option (BitVec 32)) (late : Bool) (lateness : Nat) :
    (cutOwner s owner late lateness).out = s.out := by
  unfold cutOwner
  try dsimp only
  repeat' first | rfl | (simp; done) | split

@[simp] theorem cutOwner_sst (s : State) (owner : Option (BitVec 32)) (late : Bool) (lateness : Nat) :
    (cutOwner s owner late lateness).sst = s.sst := by
  unfold cutOwner
  try dsimp only
  repeat' first | rfl | (simp; done) | split

@[simp] theorem cutOwner_mem (s : State) (owner : Option (BitVec 32)) (late : Bool) (lateness : Nat) :
    (cutOwner s owner late lateness).mem = s.mem := by
  unfold cutOwner
  try dsimp only
  repeat' first | rfl | (simp; done) | split

@[simp] theorem triggerNozzle_pending (s : State) (n : Fin 4) : (triggerNozzle s n).pending = s.pending := by
  unfold triggerNozzle
  try dsimp only
  repeat' first | rfl | simp

@[simp] theorem triggerNozzle_timeBase (s : State) (n : Fin 4) : (triggerNozzle s n).timeBase = s.timeBase := by
  unfold triggerNozzle
  try dsimp only
  repeat' first | rfl | simp

@[simp] theorem triggerNozzle_rtk (s : State) (n : Fin 4) : (triggerNozzle s n).rtk = s.rtk := by
  unfold triggerNozzle
  try dsimp only
  repeat' first | rfl | simp

@[simp] theorem triggerNozzle_laneMask (s : State) (n : Fin 4) : (triggerNozzle s n).laneMask = s.laneMask := by
  unfold triggerNozzle
  try dsimp only
  repeat' first | rfl | simp

@[simp] theorem triggerNozzle_lanes (s : State) (n : Fin 4) : (triggerNozzle s n).lanes = s.lanes := by
  unfold triggerNozzle
  try dsimp only
  repeat' first | rfl | simp

@[simp] theorem triggerNozzle_fas (s : State) (n : Fin 4) : (triggerNozzle s n).fas = s.fas := by
  unfold triggerNozzle
  try dsimp only
  repeat' first | rfl | simp

@[simp] theorem triggerNozzle_cov (s : State) (n : Fin 4) : (triggerNozzle s n).cov = s.cov := by
  unfold triggerNozzle
  try dsimp only
  repeat' first | rfl | simp

@[simp] theorem triggerNozzle_cpl (s : State) (n : Fin 4) : (triggerNozzle s n).cpl = s.cpl := by
  unfold triggerNozzle
  try dsimp only
  repeat' first | rfl | simp

@[simp] theorem triggerNozzle_sst (s : State) (n : Fin 4) : (triggerNozzle s n).sst = s.sst := by
  unfold triggerNozzle
  try dsimp only
  repeat' first | rfl | simp

@[simp] theorem triggerNozzle_mem (s : State) (n : Fin 4) : (triggerNozzle s n).mem = s.mem := by
  unfold triggerNozzle
  try dsimp only
  repeat' first | rfl | simp

@[simp] theorem triggerMask_pending (s : State) (mask : TrackSet) : (triggerMask s mask).pending = s.pending := by
  unfold triggerMask
  rw [foldl_frame State.pending (by intros; simp)]

@[simp] theorem triggerMask_timeBase (s : State) (mask : TrackSet) : (triggerMask s mask).timeBase = s.timeBase := by
  unfold triggerMask
  rw [foldl_frame State.timeBase (by intros; simp)]

@[simp] theorem triggerMask_rtk (s : State) (mask : TrackSet) : (triggerMask s mask).rtk = s.rtk := by
  unfold triggerMask
  rw [foldl_frame State.rtk (by intros; simp)]

@[simp] theorem triggerMask_laneMask (s : State) (mask : TrackSet) : (triggerMask s mask).laneMask = s.laneMask := by
  unfold triggerMask
  rw [foldl_frame State.laneMask (by intros; simp)]

@[simp] theorem triggerMask_lanes (s : State) (mask : TrackSet) : (triggerMask s mask).lanes = s.lanes := by
  unfold triggerMask
  rw [foldl_frame State.lanes (by intros; simp)]

@[simp] theorem triggerMask_fas (s : State) (mask : TrackSet) : (triggerMask s mask).fas = s.fas := by
  unfold triggerMask
  rw [foldl_frame State.fas (by intros; simp)]

@[simp] theorem triggerMask_cov (s : State) (mask : TrackSet) : (triggerMask s mask).cov = s.cov := by
  unfold triggerMask
  rw [foldl_frame State.cov (by intros; simp)]

@[simp] theorem triggerMask_cpl (s : State) (mask : TrackSet) : (triggerMask s mask).cpl = s.cpl := by
  unfold triggerMask
  rw [foldl_frame State.cpl (by intros; simp)]

@[simp] theorem triggerMask_sst (s : State) (mask : TrackSet) : (triggerMask s mask).sst = s.sst := by
  unfold triggerMask
  rw [foldl_frame State.sst (by intros; simp)]

@[simp] theorem triggerMask_mem (s : State) (mask : TrackSet) : (triggerMask s mask).mem = s.mem := by
  unfold triggerMask
  rw [foldl_frame State.mem (by intros; simp)]

@[simp] theorem offerMark_pending (s : State) (flaw : BitVec 32) (tracks : TrackSet) (yStart : Pos) :
    (offerMark s flaw tracks yStart).pending = s.pending := by
  unfold offerMark
  try dsimp only
  repeat' first | rfl | simp | split

@[simp] theorem offerMark_timeBase (s : State) (flaw : BitVec 32) (tracks : TrackSet) (yStart : Pos) :
    (offerMark s flaw tracks yStart).timeBase = s.timeBase := by
  unfold offerMark
  try dsimp only
  repeat' first | rfl | simp | split

@[simp] theorem offerMark_rtk (s : State) (flaw : BitVec 32) (tracks : TrackSet) (yStart : Pos) :
    (offerMark s flaw tracks yStart).rtk = s.rtk := by
  unfold offerMark
  try dsimp only
  repeat' first | rfl | simp | split

@[simp] theorem offerMark_laneMask (s : State) (flaw : BitVec 32) (tracks : TrackSet) (yStart : Pos) :
    (offerMark s flaw tracks yStart).laneMask = s.laneMask := by
  unfold offerMark
  try dsimp only
  repeat' first | rfl | simp | split

@[simp] theorem offerMark_lanes (s : State) (flaw : BitVec 32) (tracks : TrackSet) (yStart : Pos) :
    (offerMark s flaw tracks yStart).lanes = s.lanes := by
  unfold offerMark
  try dsimp only
  repeat' first | rfl | simp | split

@[simp] theorem offerMark_fas (s : State) (flaw : BitVec 32) (tracks : TrackSet) (yStart : Pos) :
    (offerMark s flaw tracks yStart).fas = s.fas := by
  unfold offerMark
  try dsimp only
  repeat' first | rfl | simp | split

@[simp] theorem offerMark_cov (s : State) (flaw : BitVec 32) (tracks : TrackSet) (yStart : Pos) :
    (offerMark s flaw tracks yStart).cov = s.cov := by
  unfold offerMark
  try dsimp only
  repeat' first | rfl | simp | split

@[simp] theorem offerMark_cpl (s : State) (flaw : BitVec 32) (tracks : TrackSet) (yStart : Pos) :
    (offerMark s flaw tracks yStart).cpl = s.cpl := by
  unfold offerMark
  try dsimp only
  repeat' first | rfl | simp | split

@[simp] theorem offerMark_sst (s : State) (flaw : BitVec 32) (tracks : TrackSet) (yStart : Pos) :
    (offerMark s flaw tracks yStart).sst = s.sst := by
  unfold offerMark
  try dsimp only
  repeat' first | rfl | simp | split

@[simp] theorem offerMark_mem (s : State) (flaw : BitVec 32) (tracks : TrackSet) (yStart : Pos) :
    (offerMark s flaw tracks yStart).mem = s.mem := by
  unfold offerMark
  try dsimp only
  repeat' first | rfl | simp | split

@[simp] theorem cancelMarks_pending (s : State) : (cancelMarks s).pending = s.pending := by
  unfold cancelMarks
  rw [foldl_frame State.pending (by intros; simp)]; simp

@[simp] theorem cancelMarks_timeBase (s : State) : (cancelMarks s).timeBase = s.timeBase := by
  unfold cancelMarks
  rw [foldl_frame State.timeBase (by intros; simp)]; simp

@[simp] theorem cancelMarks_rtk (s : State) : (cancelMarks s).rtk = s.rtk := by
  unfold cancelMarks
  rw [foldl_frame State.rtk (by intros; simp)]; simp

@[simp] theorem cancelMarks_laneMask (s : State) : (cancelMarks s).laneMask = s.laneMask := by
  unfold cancelMarks
  rw [foldl_frame State.laneMask (by intros; simp)]; simp

@[simp] theorem cancelMarks_lanes (s : State) : (cancelMarks s).lanes = s.lanes := by
  unfold cancelMarks
  rw [foldl_frame State.lanes (by intros; simp)]; simp

@[simp] theorem cancelMarks_fas (s : State) : (cancelMarks s).fas = s.fas := by
  unfold cancelMarks
  rw [foldl_frame State.fas (by intros; simp)]; simp

@[simp] theorem cancelMarks_cov (s : State) : (cancelMarks s).cov = s.cov := by
  unfold cancelMarks
  rw [foldl_frame State.cov (by intros; simp)]; simp

@[simp] theorem cancelMarks_cpl (s : State) : (cancelMarks s).cpl = s.cpl := by
  unfold cancelMarks
  rw [foldl_frame State.cpl (by intros; simp)]; simp

@[simp] theorem cancelMarks_sst (s : State) : (cancelMarks s).sst = s.sst := by
  unfold cancelMarks
  rw [foldl_frame State.sst (by intros; simp)]; simp

@[simp] theorem cancelMarks_mem (s : State) : (cancelMarks s).mem = s.mem := by
  unfold cancelMarks
  rw [foldl_frame State.mem (by intros; simp)]; simp

@[simp] theorem notifyCancelled_pending (s : State) (cause count : Nat) :
    (notifyCancelled s cause count).pending = s.pending := by
  unfold notifyCancelled
  try dsimp only
  repeat' first | rfl | simp

@[simp] theorem notifyCancelled_timeBase (s : State) (cause count : Nat) :
    (notifyCancelled s cause count).timeBase = s.timeBase := by
  unfold notifyCancelled
  try dsimp only
  repeat' first | rfl | simp

@[simp] theorem notifyCancelled_rtk (s : State) (cause count : Nat) :
    (notifyCancelled s cause count).rtk = s.rtk := by
  unfold notifyCancelled
  try dsimp only
  repeat' first | rfl | simp

@[simp] theorem notifyCancelled_laneMask (s : State) (cause count : Nat) :
    (notifyCancelled s cause count).laneMask = s.laneMask := by
  unfold notifyCancelled
  try dsimp only
  repeat' first | rfl | simp

@[simp] theorem notifyCancelled_lanes (s : State) (cause count : Nat) :
    (notifyCancelled s cause count).lanes = s.lanes := by
  unfold notifyCancelled
  try dsimp only
  repeat' first | rfl | simp

@[simp] theorem notifyCancelled_fas (s : State) (cause count : Nat) :
    (notifyCancelled s cause count).fas = s.fas := by
  unfold notifyCancelled
  try dsimp only
  repeat' first | rfl | simp

@[simp] theorem notifyCancelled_cov (s : State) (cause count : Nat) :
    (notifyCancelled s cause count).cov = s.cov := by
  unfold notifyCancelled
  try dsimp only
  repeat' first | rfl | simp

@[simp] theorem notifyCancelled_cpl (s : State) (cause count : Nat) :
    (notifyCancelled s cause count).cpl = s.cpl := by
  unfold notifyCancelled
  try dsimp only
  repeat' first | rfl | simp

@[simp] theorem notifyCancelled_out (s : State) (cause count : Nat) :
    (notifyCancelled s cause count).out = s.out := by
  unfold notifyCancelled
  try dsimp only
  repeat' first | rfl | simp

@[simp] theorem notifyCancelled_sst (s : State) (cause count : Nat) :
    (notifyCancelled s cause count).sst = s.sst := by
  unfold notifyCancelled
  try dsimp only
  repeat' first | rfl | simp

@[simp] theorem journalFlaw_pending (s : State) (f : Flaw) : (journalFlaw s f).pending = s.pending := by
  unfold journalFlaw
  try dsimp only
  repeat' first | rfl | simp | split

@[simp] theorem journalFlaw_timeBase (s : State) (f : Flaw) : (journalFlaw s f).timeBase = s.timeBase := by
  unfold journalFlaw
  try dsimp only
  repeat' first | rfl | simp | split

@[simp] theorem journalFlaw_rtk (s : State) (f : Flaw) : (journalFlaw s f).rtk = s.rtk := by
  unfold journalFlaw
  try dsimp only
  repeat' first | rfl | simp | split

@[simp] theorem journalFlaw_laneMask (s : State) (f : Flaw) : (journalFlaw s f).laneMask = s.laneMask := by
  unfold journalFlaw
  try dsimp only
  repeat' first | rfl | simp | split

@[simp] theorem journalFlaw_lanes (s : State) (f : Flaw) : (journalFlaw s f).lanes = s.lanes := by
  unfold journalFlaw
  try dsimp only
  repeat' first | rfl | simp | split

@[simp] theorem journalFlaw_cov (s : State) (f : Flaw) : (journalFlaw s f).cov = s.cov := by
  unfold journalFlaw
  try dsimp only
  repeat' first | rfl | simp | split

@[simp] theorem journalFlaw_cpl (s : State) (f : Flaw) : (journalFlaw s f).cpl = s.cpl := by
  unfold journalFlaw
  try dsimp only
  repeat' first | rfl | simp | split

@[simp] theorem journalFlaw_out (s : State) (f : Flaw) : (journalFlaw s f).out = s.out := by
  unfold journalFlaw
  try dsimp only
  repeat' first | rfl | simp | split

@[simp] theorem journalFlaw_sst (s : State) (f : Flaw) : (journalFlaw s f).sst = s.sst := by
  unfold journalFlaw
  try dsimp only
  repeat' first | rfl | simp | split

@[simp] theorem setGate_pending (s : State) (g : SpeedGate) : (setGate s g).pending = s.pending := by
  unfold setGate
  try dsimp only
  rfl

@[simp] theorem setGate_timeBase (s : State) (g : SpeedGate) : (setGate s g).timeBase = s.timeBase := by
  unfold setGate
  try dsimp only
  rfl

@[simp] theorem setGate_laneMask (s : State) (g : SpeedGate) : (setGate s g).laneMask = s.laneMask := by
  unfold setGate
  try dsimp only
  rfl

@[simp] theorem setGate_lanes (s : State) (g : SpeedGate) : (setGate s g).lanes = s.lanes := by
  unfold setGate
  try dsimp only
  rfl

@[simp] theorem setGate_fas (s : State) (g : SpeedGate) : (setGate s g).fas = s.fas := by
  unfold setGate
  try dsimp only
  rfl

@[simp] theorem setGate_cov (s : State) (g : SpeedGate) : (setGate s g).cov = s.cov := by
  unfold setGate
  try dsimp only
  rfl

@[simp] theorem setGate_cpl (s : State) (g : SpeedGate) : (setGate s g).cpl = s.cpl := by
  unfold setGate
  try dsimp only
  rfl

@[simp] theorem setGate_out (s : State) (g : SpeedGate) : (setGate s g).out = s.out := by
  unfold setGate
  try dsimp only
  rfl

@[simp] theorem setGate_tly (s : State) (g : SpeedGate) : (setGate s g).tly = s.tly := by
  unfold setGate
  try dsimp only
  rfl

@[simp] theorem setGate_sst (s : State) (g : SpeedGate) : (setGate s g).sst = s.sst := by
  unfold setGate
  try dsimp only
  rfl

@[simp] theorem setGate_xch (s : State) (g : SpeedGate) : (setGate s g).xch = s.xch := by
  unfold setGate
  try dsimp only
  rfl

@[simp] theorem setGate_mem (s : State) (g : SpeedGate) : (setGate s g).mem = s.mem := by
  unfold setGate
  try dsimp only
  rfl

@[simp] theorem occupancyEvent_pending (s : State) : (occupancyEvent s).pending = s.pending := by
  unfold occupancyEvent
  try dsimp only
  repeat' first | rfl | simp

@[simp] theorem occupancyEvent_timeBase (s : State) : (occupancyEvent s).timeBase = s.timeBase := by
  unfold occupancyEvent
  try dsimp only
  repeat' first | rfl | simp

@[simp] theorem occupancyEvent_rtk (s : State) : (occupancyEvent s).rtk = s.rtk := by
  unfold occupancyEvent
  try dsimp only
  repeat' first | rfl | simp

@[simp] theorem occupancyEvent_laneMask (s : State) : (occupancyEvent s).laneMask = s.laneMask := by
  unfold occupancyEvent
  try dsimp only
  repeat' first | rfl | simp

@[simp] theorem occupancyEvent_lanes (s : State) : (occupancyEvent s).lanes = s.lanes := by
  unfold occupancyEvent
  try dsimp only
  repeat' first | rfl | simp

@[simp] theorem occupancyEvent_fas (s : State) : (occupancyEvent s).fas = s.fas := by
  unfold occupancyEvent
  try dsimp only
  repeat' first | rfl | simp

@[simp] theorem occupancyEvent_cov (s : State) : (occupancyEvent s).cov = s.cov := by
  unfold occupancyEvent
  try dsimp only
  repeat' first | rfl | simp

@[simp] theorem occupancyEvent_cpl (s : State) : (occupancyEvent s).cpl = s.cpl := by
  unfold occupancyEvent
  try dsimp only
  repeat' first | rfl | simp

@[simp] theorem occupancyEvent_out (s : State) : (occupancyEvent s).out = s.out := by
  unfold occupancyEvent
  try dsimp only
  repeat' first | rfl | simp

@[simp] theorem occupancyEvent_sst (s : State) : (occupancyEvent s).sst = s.sst := by
  unfold occupancyEvent
  try dsimp only
  repeat' first | rfl | simp

@[simp] theorem occupancyEvent_mem (s : State) : (occupancyEvent s).mem = s.mem := by
  unfold occupancyEvent
  try dsimp only
  repeat' first | rfl | simp

@[simp] theorem notifyRunout_pending (s : State) (start : Bool) : (notifyRunout s start).pending = s.pending := by
  unfold notifyRunout
  try dsimp only
  repeat' first | rfl | simp

@[simp] theorem notifyRunout_timeBase (s : State) (start : Bool) : (notifyRunout s start).timeBase = s.timeBase := by
  unfold notifyRunout
  try dsimp only
  repeat' first | rfl | simp

@[simp] theorem notifyRunout_rtk (s : State) (start : Bool) : (notifyRunout s start).rtk = s.rtk := by
  unfold notifyRunout
  try dsimp only
  repeat' first | rfl | simp

@[simp] theorem notifyRunout_laneMask (s : State) (start : Bool) : (notifyRunout s start).laneMask = s.laneMask := by
  unfold notifyRunout
  try dsimp only
  repeat' first | rfl | simp

@[simp] theorem notifyRunout_lanes (s : State) (start : Bool) : (notifyRunout s start).lanes = s.lanes := by
  unfold notifyRunout
  try dsimp only
  repeat' first | rfl | simp

@[simp] theorem notifyRunout_fas (s : State) (start : Bool) : (notifyRunout s start).fas = s.fas := by
  unfold notifyRunout
  try dsimp only
  repeat' first | rfl | simp

@[simp] theorem notifyRunout_cov (s : State) (start : Bool) : (notifyRunout s start).cov = s.cov := by
  unfold notifyRunout
  try dsimp only
  repeat' first | rfl | simp

@[simp] theorem notifyRunout_cpl (s : State) (start : Bool) : (notifyRunout s start).cpl = s.cpl := by
  unfold notifyRunout
  try dsimp only
  repeat' first | rfl | simp

@[simp] theorem notifyRunout_out (s : State) (start : Bool) : (notifyRunout s start).out = s.out := by
  unfold notifyRunout
  try dsimp only
  repeat' first | rfl | simp

@[simp] theorem notifyRunout_sst (s : State) (start : Bool) : (notifyRunout s start).sst = s.sst := by
  unfold notifyRunout
  try dsimp only
  repeat' first | rfl | simp

end Sys2Proof.Machine
end

