-- ==== Sys2Proof/Laws/PerInstr.lean ====
section
/-! SUPPORT. Statements about every command, proved one command at a time. -/
namespace Sys2Proof

namespace Laws.WritesInWindow

/-- A well-formed command stores bytes in the 256 MiB of exchange memory alone (R168). -/
def Statement (i : Instr) : Prop := i.wellFormed = true → ∀ c ∈ i.written, c.1 < Config.windowSize

theorem of_check {written : List Host.Cell} (h : writesInWindow written = true) :
    ∀ c ∈ written, c.1 < Config.windowSize := by
  simpa [writesInWindow] using h

theorem powerOn : Statement .powerOn := by
  intro _ c h
  cases h

theorem reset (value : BitVec 32) (written : List Host.Cell) : Statement (.reset value written) := by
  intro h
  simp only [Instr.wellFormed, Bool.and_eq_true] at h
  exact of_check h.2

theorem prompt (value : BitVec 32) (written : List Host.Cell) : Statement (.prompt value written) := by
  intro h
  simp only [Instr.wellFormed, Bool.and_eq_true] at h
  exact of_check h.2

theorem attnWrite (value : BitVec 32) : Statement (.attnWrite value) := by
  intro _ c h
  cases h

theorem attnEnWrite (value : BitVec 32) : Statement (.attnEnWrite value) := by
  intro _ c h
  cases h

theorem ignoredRegisterWrite (register : ReadOnlyRegister) (value : BitVec 32) : Statement (.ignoredRegisterWrite register value) := by
  intro _ c h
  cases h

theorem forwardStep : Statement .forwardStep := by
  intro _ c h
  cases h

theorem reverseStep : Statement .reverseStep := by
  intro _ c h
  cases h

theorem rlePulse : Statement .rlePulse := by
  intro _ c h
  cases h

theorem gatePhaseEnd : Statement .gatePhaseEnd := by
  intro _ c h
  cases h

theorem stall : Statement .stall := by
  intro _ c h
  cases h

theorem slipPhaseEnd : Statement .slipPhaseEnd := by
  intro _ c h
  cases h

theorem slipOver : Statement .slipOver := by
  intro _ c h
  cases h

theorem linePacket (lane : LaneId) (bytes : List Byte) : Statement (.linePacket lane bytes) := by
  intro _ c h
  cases h

theorem pulseEnd : Statement .pulseEnd := by
  intro _ c h
  cases h

theorem gapEnd : Statement .gapEnd := by
  intro _ c h
  cases h

theorem nozzlePulseEnd (nozzle : Fin 4) : Statement (.nozzlePulseEnd nozzle) := by
  intro _ c h
  cases h

theorem pollTimerExpiry (written : List Host.Cell) : Statement (.pollTimerExpiry written) := by
  intro h
  exact of_check h

theorem enterHalted (written : List Host.Cell) : Statement (.enterHalted written) := by
  intro h
  exact of_check h

theorem planStep (written : List Host.Cell) : Statement (.planStep written) := by
  intro h
  exact of_check h

theorem segmentReport : Statement .segmentReport := by
  intro _ c h
  cases h

theorem snapshotWrite : Statement .snapshotWrite := by
  intro _ c h
  cases h

end Laws.WritesInWindow

end Sys2Proof
end

