-- ==== Sys2Proof/Laws/PlanStep.lean ====
section
/-!
SUPPORT. The plan step in parts: what its end leaves alone, that an end made at once and an end made after some requests
are the same where nothing comes between, and the plates of a candidate.
-/
namespace Sys2Proof.Machine

/-- What the end of a plan step leaves alone: all but the planner, the Cut List and the strobe, the counters, attention and
the order book. -/
structure StepFrame (s t : State) : Prop where
  pending : t.pending = s.pending
  timeBase : t.timeBase = s.timeBase
  rtk : t.rtk = s.rtk
  laneMask : t.laneMask = s.laneMask
  lanes : t.lanes = s.lanes
  fas : t.fas = s.fas
  cov : t.cov = s.cov
  marks : t.out.marks = s.out.marks
  nozzles : t.out.nozzles = s.out.nozzles
  hold : t.out.hold = s.out.hold
  tly : t.tly = { s.tly with counters := t.tly.counters }
  sst : t.sst = { s.sst with current := t.sst.current }
  xch : t.xch = { s.xch with attn := t.xch.attn, line := t.xch.line }
  mem : t.mem = s.mem

theorem StepFrame.refl (s : State) : StepFrame s s := ⟨rfl, rfl, rfl, rfl, rfl, rfl, rfl, rfl, rfl, rfl, rfl, rfl, rfl, rfl⟩

theorem StepFrame.trans {s t u : State} (a : StepFrame s t) (b : StepFrame t u) : StepFrame s u where
  pending := b.pending.trans a.pending
  timeBase := b.timeBase.trans a.timeBase
  rtk := b.rtk.trans a.rtk
  laneMask := b.laneMask.trans a.laneMask
  lanes := b.lanes.trans a.lanes
  fas := b.fas.trans a.fas
  cov := b.cov.trans a.cov
  marks := b.marks.trans a.marks
  nozzles := b.nozzles.trans a.nozzles
  hold := b.hold.trans a.hold
  tly := by rw [b.tly, a.tly]
  sst := by rw [b.sst, a.sst]
  xch := by rw [b.xch, a.xch]
  mem := b.mem.trans a.mem

theorem setCpl_stepFrame (s : State) (v : Planner) : StepFrame s (s.setCpl v) :=
  ⟨rfl, rfl, rfl, rfl, rfl, rfl, rfl, rfl, rfl, rfl, rfl, rfl, rfl, rfl⟩

theorem tallyEvent_stepFrame (s : State) (kind : TallyKind) (selector : Nat) (magnitude : Option Nat) :
    StepFrame s (tallyEvent s kind selector magnitude) := by
  unfold tallyEvent addTallies
  split
  · exact StepFrame.refl s
  · unfold raiseCauseIf
    split <;> exact ⟨rfl, rfl, rfl, rfl, rfl, rfl, rfl, rfl, rfl, rfl, rfl, rfl, rfl, rfl⟩

theorem occupancyEvent_stepFrame (s : State) : StepFrame s (occupancyEvent s) := tallyEvent_stepFrame s _ _ _

theorem judgeHead_stepFrame (s : State) : StepFrame s (judgeHead s) := by
  unfold judgeHead
  split
  · exact StepFrame.refl s
  · split
    · exact ⟨rfl, rfl, rfl, rfl, rfl, rfl, rfl, rfl, rfl, rfl, rfl, rfl, rfl, rfl⟩
    · exact StepFrame.refl s

theorem culletCutEvent_stepFrame (s : State) (g : Segment) : StepFrame s (culletCutEvent s g) := by
  unfold culletCutEvent
  split
  · exact tallyEvent_stepFrame _ _ _ _
  · exact StepFrame.refl _

theorem setCuts_stepFrame (s : State) (cuts : List Cut) (strobe : Strobe) :
    StepFrame s (s.setOut { s.out with cuts := cuts, strobe := strobe }) :=
  ⟨rfl, rfl, rfl, rfl, rfl, rfl, rfl, rfl, rfl, rfl, rfl, rfl, rfl, rfl⟩

theorem cutOwner_stepFrame (s : State) (owner : Option (BitVec 32)) (late : Bool) (lateness : Nat) :
    StepFrame s (cutOwner s owner late lateness) := by
  unfold cutOwner
  split
  · exact StepFrame.refl s
  · dsimp only
    split
    · exact StepFrame.trans (setCpl_stepFrame s _) (culletCutEvent_stepFrame _ _)
    · exact setCpl_stepFrame s _

theorem fireHead_stepFrame (s : State) : StepFrame s (fireHead s) := by
  unfold fireHead
  split
  · exact StepFrame.refl s
  · split
    · dsimp only
      split
      · exact StepFrame.trans (setCuts_stepFrame s _ _)
          (StepFrame.trans (cutOwner_stepFrame _ _ _ _) (tallyEvent_stepFrame _ _ _ _))
      · exact StepFrame.trans (setCuts_stepFrame s _ _) (cutOwner_stepFrame _ _ _ _)
    · exact StepFrame.refl s

theorem handCut_stepFrame (s : State) (position : Pos) (owner : Option (BitVec 32)) :
    StepFrame s (handCut s position owner) := by
  unfold handCut
  dsimp only
  split
  · exact StepFrame.trans (setCuts_stepFrame s _ _)
      ((judgeHead_stepFrame _).trans ((fireHead_stepFrame _).trans (judgeHead_stepFrame _)))
  · exact setCuts_stepFrame s _ _

theorem plateEvents_stepFrame (n : Nat) (s : State) (p : Plate) : StepFrame s (plateEvents n s p) := by
  unfold plateEvents
  dsimp only
  split
  · exact (tallyEvent_stepFrame _ _ _ _).trans (tallyEvent_stepFrame _ _ _ _)
  · exact tallyEvent_stepFrame _ _ _ _

theorem foldl_stepFrame {α : Type} {f : State → α → State} (hf : ∀ s x, StepFrame s (f s x)) :
    ∀ (l : List α) (s : State), StepFrame s (l.foldl f s) := by
  intro l
  induction l with
  | nil => intro s; exact StepFrame.refl s
  | cons x rest ih => intro s; exact (hf s x).trans (ih _)

theorem creditOrder_stepFrame (s : State) (d : Decision) : StepFrame s (creditOrder s d) := by
  unfold creditOrder
  split
  · exact StepFrame.refl s
  · refine StepFrame.trans ?_ (foldl_stepFrame (fun s x => plateEvents_stepFrame _ s x) _ _)
    exact ⟨rfl, rfl, rfl, rfl, rfl, rfl, rfl, rfl, rfl, rfl, rfl, rfl, rfl, rfl⟩

theorem enterSegment_stepFrame (s : State) (v : PlanView) (d : Decision) (stop : Pos) :
    StepFrame s (enterSegment s v d stop) :=
  (setCpl_stepFrame s _).trans ((handCut_stepFrame _ _ _).trans ((creditOrder_stepFrame _ _).trans
    (occupancyEvent_stepFrame _)))

theorem enterRunoutCut_stepFrame (s : State) (position : Pos) : StepFrame s (enterRunoutCut s position) :=
  (setCpl_stepFrame s _).trans ((handCut_stepFrame _ _ _).trans ((tallyEvent_stepFrame _ _ _ _).trans
    (occupancyEvent_stepFrame _)))

theorem closeStep_stepFrame (s : State) (p : PlanProgress) : StepFrame s (closeStep s p) := by
  unfold closeStep
  dsimp only
  split
  · split
    · exact enterRunoutCut_stepFrame _ _
    · exact StepFrame.refl s
  · split
    · exact enterSegment_stepFrame _ _ _ _
    · exact StepFrame.refl s

/-- What the end of a plan step can touch. -/
theorem finishStep_stepFrame (s : State) : StepFrame s (finishStep s) := by
  unfold finishStep
  split
  · exact (setCpl_stepFrame s _).trans (closeStep_stepFrame _ _)
  · exact StepFrame.refl s

/-- Without a step in progress there is none to end. -/
theorem finishStep_none {s : State} (h : s.cpl.step = none) : finishStep s = s := by
  unfold finishStep
  rw [h]

/-- Without a step in progress none goes on. -/
theorem advanceStep_none {s : State} (n : Nat) (h : s.cpl.step = none) : advanceStep n s = s := by
  unfold advanceStep
  rw [h]

/-- What a step has taken so far and what it takes at its end are what it takes at once, where nothing comes between. -/
theorem finishStep_advanceStep (n : Nat) (s : State) : finishStep (advanceStep n s) = finishStep s := by
  rcases h : s.cpl.step with _ | p
  · rw [advanceStep_none n h]
  · have answers : ∀ q, answerRequest (setStep s q) = answerRequest s := fun _ => rfl
    have h1 : advanceStep n s = setStep s (p.take s n) := by unfold advanceStep; rw [h]
    have h2 : (setStep s (p.take s n)).cpl.step = some (p.take s n) := rfl
    have h3 : (p.take s n).take (setStep s (p.take s n)) (p.take s n).requests.length = p.take s p.requests.length := by
      unfold PlanProgress.take
      rw [answers]
      simp only [List.take_length, List.drop_length, List.append_assoc, ← List.map_append, List.take_append_drop]
    unfold finishStep
    rw [h1, h, h2]
    simp only [h3]
    rfl

/-- The step in progress is kept by every change that keeps the planner but for its queue. -/
theorem step_fire (c : Option PlanProgress) : Fire fun x => x.cpl.step = c := by
  refine ⟨⟨⟨⟨?_, ?_, ?_, ?_, ?_⟩, ?_⟩, ?_, ?_, ?_, ?_⟩, ?_, ?_⟩ <;> intros <;> assumption

theorem handCut_step (c : Option PlanProgress) (s : State) (position : Pos) (owner : Option (BitVec 32))
    (h : s.cpl.step = c) : (handCut s position owner).cpl.step = c := by
  unfold handCut
  dsimp only
  split
  · exact testCuts_keeps (step_fire c) _ h
  · exact h

theorem creditOrder_step (c : Option PlanProgress) (s : State) (d : Decision) (h : s.cpl.step = c) :
    (creditOrder s d).cpl.step = c := by
  unfold creditOrder
  split
  · exact h
  · exact foldl_keeps (P := fun x => x.cpl.step = c)
      (fun s p hs => plateEvents_keeps (step_fire c).toInspect.toCover.toWatch _ s p hs) _ _ h

theorem enterSegment_step (c : Option PlanProgress) (s : State) (v : PlanView) (d : Decision) (stop : Pos)
    (h : s.cpl.step = c) : (enterSegment s v d stop).cpl.step = c := by
  unfold enterSegment
  exact tallyEvent_keeps (step_fire c).toInspect.toCover.toWatch _ _ _ _
    (creditOrder_step c _ _ (handCut_step c _ _ _ h))

theorem enterRunoutCut_step (c : Option PlanProgress) (s : State) (position : Pos) (h : s.cpl.step = c) :
    (enterRunoutCut s position).cpl.step = c := by
  unfold enterRunoutCut
  exact tallyEvent_keeps (step_fire c).toInspect.toCover.toWatch _ _ _ _
    (tallyEvent_keeps (step_fire c).toInspect.toCover.toWatch _ _ _ _ (handCut_step c _ _ _ h))

theorem closeStep_step (c : Option PlanProgress) (s : State) (p : PlanProgress) (h : s.cpl.step = c) :
    (closeStep s p).cpl.step = c := by
  unfold closeStep
  dsimp only
  split
  · split
    · exact enterRunoutCut_step c _ _ h
    · exact h
  · split
    · exact enterSegment_step c _ _ _ _ h
    · exact h

/-- After its end no step is in progress. -/
@[simp] theorem finishStep_step (s : State) : (finishStep s).cpl.step = none := by
  unfold finishStep
  split
  · exact closeStep_step none _ _ rfl
  · assumption

@[simp] theorem finishStep_finishStep (s : State) : finishStep (finishStep s) = finishStep s :=
  finishStep_none (finishStep_step s)

/-- A step that begins comes to the same end whatever part of its requests it first takes. -/
theorem finishStep_beginStep (pause : Option Nat) (s : State) :
    finishStep (beginStep pause s) = finishStep (openStep s) := by
  cases pause with
  | none => exact finishStep_finishStep _
  | some n => exact finishStep_advanceStep n _

/-- A step that goes on comes to the same end whatever part of its requests it takes. -/
theorem finishStep_resumeStep (pause : Option Nat) (s : State) (p : PlanProgress) :
    finishStep (resumeStep pause s p) = finishStep s := by
  cases pause with
  | none => exact finishStep_finishStep _
  | some n =>
    unfold resumeStep
    dsimp only
    split
    · exact finishStep_finishStep _
    · exact finishStep_advanceStep _ _

theorem filter_flatMap_of_mem {α β : Type} [DecidableEq α] (f : α → List β) (key : β → α) (hf : ∀ x, ∀ y ∈ f x, key y = x)
    (a : α) : ∀ l : List α, l.Nodup → a ∈ l → (l.flatMap f).filter (fun y => decide (key y = a)) = f a := by
  intro l
  induction l with
  | nil => intro _ h; cases h
  | cons x rest ih =>
    intro hn hm
    rw [List.flatMap_cons, List.filter_append]
    have other : ∀ l' : List α, a ∉ l' → (l'.flatMap f).filter (fun y => decide (key y = a)) = [] := by
      intro l' ha
      rw [List.filter_eq_nil_iff]
      intro y hy
      obtain ⟨z, hz, hyz⟩ := List.mem_flatMap.mp hy
      have := hf z y hyz
      simp only [decide_eq_true_eq]
      rintro rfl
      exact ha (this ▸ hz)
    have own : ∀ z, (f z).filter (fun y => decide (key y = a)) = if z = a then f z else [] := by
      intro z
      split
      · next h => exact List.filter_eq_self.mpr fun y hy => by simp [hf z y hy, h]
      · next h => exact List.filter_eq_nil_iff.mpr fun y hy => by simp [hf z y hy, h]
    rw [own]
    rcases List.mem_cons.mp hm with rfl | h
    · rw [if_pos rfl, other rest (List.nodup_cons.mp hn).1, List.append_nil]
    · have hx : x ≠ a := fun e => (List.nodup_cons.mp hn).1 (e ▸ h)
      rw [if_neg hx, List.nil_append, ih (List.nodup_cons.mp hn).2 h]

theorem nodup_eraseDups : ∀ l : List Nat, l.eraseDups.Nodup
  | [] => by simp
  | a :: rest => by
    rw [List.eraseDups_cons, List.nodup_cons]
    exact ⟨by simp, nodup_eraseDups _⟩
termination_by l => l.length
decreasing_by
  simp only [List.length_cons]
  exact Nat.lt_succ_of_le (List.length_filter_le _ _)

/-- The results for a candidate's length are its plates, in track order (R110). -/
theorem candidates_plates (s : State) (v : PlanView) {x : Nat × BookLine} (h : x ∈ v.reachable) :
    ((v.gradingRequests.map (answerRequest s v)).filter fun r => decide (r.1 = x.2.line.length)).map Prod.snd =
      gradePlates s v.set v.frontier (v.frontier + x.2.line.length) := by
  unfold PlanView.gradingRequests
  rw [List.map_flatMap]
  rw [filter_flatMap_of_mem _ Prod.fst ?_ x.2.line.length]
  · simp only [List.map_map]
    rfl
  · exact nodup_eraseDups _
  · exact List.mem_eraseDups.mpr (List.mem_map.mpr ⟨x, h, rfl⟩)
  · intro n y hy
    simp only [List.map_map, List.mem_map, Function.comp_apply] at hy
    obtain ⟨_, _, rfl⟩ := hy
    rfl

/-- A candidate's plates are graded over its own segment (R110, R111). -/
theorem candidates_eq (s : State) (v : PlanView) : candidates s v =
    v.reachable.map fun x =>
      Candidate.of x.1 x.2 (gradePlates s v.set v.frontier (v.frontier + x.2.line.length)) := by
  unfold candidates candidatesFrom
  refine List.map_congr_left fun x h => ?_
  rw [candidates_plates s v h]

end Sys2Proof.Machine
end

