-- ==== Sys2Proof/Tests/Slice0.lean ====
section
/-! SUPPORT. The model's own tests: the well-formedness checks, the manual's worked cases (the source of each expected
value is named beside it), and for every statement with hypotheses a state and operands that meet them. -/
namespace Sys2Proof.Tests
set_option maxRecDepth 20000
open Sys2Proof Sys2Proof.Machine

/-! ## WellFormed: one ill-formed command for each check -/

theorem test_wf_reset_needs_bit0 : (Instr.reset 0x2#32 []).wellFormed = false := by decide
theorem test_wf_reset_window : (Instr.reset 0x1#32 [(0x10000000, 0)]).wellFormed = false := by decide
theorem test_wf_prompt_needs_bit1 : (Instr.prompt 0x4#32 []).wellFormed = false := by decide
theorem test_wf_prompt_without_bit0 : (Instr.prompt 0x3#32 []).wellFormed = false := by decide
theorem test_wf_prompt_window : (Instr.prompt 0x2#32 [(0x10000000, 0)]).wellFormed = false := by decide
theorem test_wf_poll_window : (Instr.pollTimerExpiry [(0x10000000, 0)]).wellFormed = false := by decide
theorem test_wf_halted_window : (Instr.enterHalted [(0x10000000, 0)]).wellFormed = false := by decide
theorem test_wf_plan_window : (Instr.planStep [(0x10000000, 0)]).wellFormed = false := by decide
theorem test_wf_accepts : (Instr.prompt 0x2#32 [(0x0FFFFFFF, 7)]).wellFormed = true := by decide

/-! ## Table words: no row has bits -/

theorem test_no_word_spells_a_command : decodeTableWord 32 0 = none := by decide
theorem test_withFetchWord_unchanged : State.reset.withFetchWord 32 1 = State.reset := by rfl

/-! ## Worked cases of chapter 1 -/

/-- Section 1.3.1: T = 285,714 publishes 7,000 rs/s. -/
theorem test_gate_speed : gateSpeed 2000 285714 = 7000 := by decide
/-- R8: the quotient saturates at 2^32 − 1. -/
theorem test_gate_speed_saturates : gateSpeed 60000 1 = 4294967295 := by decide
/-- Section 1.3.1 (4 permille) and the same distance below. -/
theorem test_slip : slipOf 2512 2500 = 4 ∧ slipOf 2490 2500 = -4 ∧ slipOf 0 2500 = -999 := by decide
/-- Section 1.3.3: a cutter lead of 840 rs and a marker lead of 245 rs. -/
theorem test_leads : leadOf 7000 120 = 840 ∧ leadOf 7000 35 = 245 := by decide

/-- R13's example: 19,200, 19,216, 19,196, 19,197. -/
theorem test_edge_filter :
    let e0 := EdgeSide.reset.update 2 (some 1200)
    let e1 := e0.update 2 (some 1204)
    let e2 := e1.update 2 (some 1196)
    let e3 := e2.update 2 (some 1200)
    (e0.filtered, e1.filtered, e2.filtered, e3.filtered) = (19200, 19216, 19196, 19197) := by decide

/-- Section 1.6.1: track 1 against drive edges 3,150, 3,164, 3,155, 3,141, 3,140. -/
theorem test_width_check :
    let t : Track := { lo := 3200, hi := 24700 }
    checkTrack 40 20 3150 46400 t false = false ∧ checkTrack 40 20 3164 46400 t false = true ∧
      checkTrack 40 20 3155 46400 t true = true ∧ checkTrack 40 20 3141 46400 t true = true ∧
      checkTrack 40 20 3140 46400 t true = false := by decide

/-! ## Worked cases of chapter 2 -/

/-- R27's examples. -/
theorem test_correction : correctPixel 40 32 612 = 643 ∧ correctPixel 40 32 30 = 0 ∧ correctPixel (-20) 32 1000 = 1023 := by
  decide
/-- R28's example. -/
theorem test_background : followBackground 4 608 38400 = 38432 := by decide
/-- R30's example: pixels 100 to 104 at X = 23,995 down to 23,991, kept under a minimum of 5 and not of 6. -/
theorem test_run :
    formRuns .transmitted 23991 none [.dark 29, .dark 40, .dark 52, .dark 44, .dark 31] =
      [{ view := .transmitted, xStart := 23991, xEnd := 23996, polarities := 0b01#2, peak := 52, count := 5 }] := by decide
/-- R24: the ends of the range of differences. -/
theorem test_line_difference :
    lineDifference 5 3 = 2 ∧ lineDifference 1 4294967295 = 2 ∧ lineDifference 4294967295 0 = -1 ∧
      lineDifference 2147483648 0 = 2147483648 ∧ lineDifference 2147483649 0 = -2147483647 := by decide

/-! ## Worked cases of chapters 3 and 4 -/

/-- R47's example: three marks. -/
theorem test_marks :
    let run (v : View) (a b : Nat) (p : PolSet) (peak n : Nat) : Run :=
      { view := v, xStart := a, xEnd := b, polarities := p, peak := peak, count := n }
    lineMarks 4 [run .transmitted 1200 1206 0b01#2 40 6, run .transmitted 1230 1233 0b10#2 25 3,
      run .reflected 1209 1214 0b10#2 60 5, run .scattered 1236 1240 0b10#2 18 4, run .scattered 1300 1302 0b01#2 30 2] =
      [{ xStart := 1200, xEnd := 1214, views := 0b011#3, polarities := 0b11#2, peak := 60, count := 11 },
       { xStart := 1230, xEnd := 1240, views := 0b101#3, polarities := 0b10#2, peak := 25, count := 7 },
       { xStart := 1300, xEnd := 1302, views := 0b100#3, polarities := 0b01#2, peak := 30, count := 2 }] := by decide

/-- R55's example: fields [30,000, 34,096) and [34,000, 38,096) meet at 34,048. -/
theorem test_seam : seam (30000, 34096) (34000, 38096) = 34048 := by decide

/-- Section 4.1: the union of six lanes' fields, with and without lane 4. -/
theorem test_covered :
    reachFrom 24700 [(2000, 10192), (10100, 18292), (18200, 26392), (26300, 34492), (34400, 42592), (42500, 50692)] = 50692 ∧
      reachFrom 24700 [(2000, 10192), (10100, 18292), (18200, 26392), (26300, 34492), (42500, 50692)] = 34492 := by decide

/-- An entry of section 4.9.2: entry 88. -/
def entry88 : Stretch :=
  { number := 88, causes := Cause.gap.bit, tracks := 0b0010#4, yStart := 7100000, yEnd := some 7100040, openCauses := 0,
    closedEnd := none, lane := some 3, order := 31 }

/-- Section 4.9.2: the folds of entry 88 and its close. -/
theorem test_folding :
    let e1 := entry88.fold { cause := .width, tracks := 0b0001#4, yStart := 7100300, yEnd := none, lane := none }
    let e2 := e1.fold { cause := .spill, tracks := 0b0001#4, yStart := 7100500, yEnd := some 7100620, lane := none }
    let e3 := e2.closeCause .width 7100900
    e1.closedEnd = some 7100040 ∧ e1.yEnd = none ∧ e1.tracks = 0b0011#4 ∧ e1.lane = none ∧
      e2.closedEnd = some 7100620 ∧ e2.openCauses = Cause.width.bit ∧ e3.openCauses = 0 ∧ e3.yEnd = some 7100900 := by
  decide

/-! ## Worked cases of chapter 5 -/

/-- The row of class 2 in section 5.8. -/
def row2 : GradingRow :=
  { ignoreSize := 5, rampCode := 3, cutOut := false, mark := false, base := 4, peak := 40, absolute := 80, edgeWeight := 24,
    limitA := 3, limitB := 6, limitC := 12 }
/-- The row of class 5 in section 5.8. -/
def row5 : GradingRow :=
  { ignoreSize := 100, rampCode := 10, cutOut := false, mark := false, base := 10, peak := 200, absolute := 0,
    edgeWeight := 16, limitA := 0, limitB := 1, limitC := 3 }

/-- Section 5.8: 14, 40 and 158 points. -/
theorem test_points : flawPoints row2 12 = 14 ∧ flawPoints row2 40 = 40 ∧ flawPoints row5 300 = 158 := by decide
/-- Section 5.7: the worst of the grades and overrides. -/
theorem test_causes :
    finalGrade .reject .c false .blind = .reject ∧ gradeCauses .reject .c false .blind = 0b00001#5 ∧
      finalGrade .reject .c false .width = .short ∧ gradeCauses .reject .c false .width = 0b10000#5 ∧
      gradeCauses .b .b false .clear = 0b00011#5 := by decide

/-! ## A line, a product set and states for the witnesses -/

/-- The place of a journal. -/
def place (base : Nat) : JournalPlace := { base := base, capacity := 16, level := 16 }

/-- Line settings: lanes 0 and 1 fitted, their fields [0, 1,024) and [960, 1,984); the distances of section 6.11 and the
delays and times of sections 7.2.1 and 7.6.1. -/
def line : LineSettings :=
  { (default : LineSettings) with
    lanes := (Vector.replicate 12 { fitted := false, direction := 1, pixels := 1024, origin := 0 }).set 0
      { fitted := true, direction := 1, pixels := 1024, origin := 0 } |>.set 1
      { fitted := true, direction := -1, pixels := 1024, origin := 960 }
    driveLane := 0, operatorLane := 1, pitch := 2, gapTolerance := 4, settleLength := 1000, staleDistance := 5000,
    errorWindow := 4096, errorThreshold := 40, recoverThreshold := 8, gainStep := 1, dwell := 16, gateLength := 2000,
    rleRatio := 1250, slipLimit := 10, markerDistance := 10000, cutterDistance := 150000, commitDistance := 20000,
    cutterDelay := 120, markerDelay := 35, strobeWidth := 100, strobeGap := 400, markerWidth := 60, pollInterval := 5,
    headMargin := 100, urgencyMargin := 3000, culletMin := 3000, culletMax := 12000, clearance := 200,
    flawPlace := place 0x10000, platePlace := place 0x20000, noticePlace := place 0x30000 }

/-- A product set with two tracks and the order book of section 6.11. -/
def product : ProductSet :=
  { (default : ProductSet) with
    number := 7, filterShift := 4, minRun := 5, joinGap := 4, closeGap := 8, splitLength := 6000,
    thresholds := { transmitted := { dark := 20, bright := 20 }, reflected := { dark := 20, bright := 20 },
                    scattered := { dark := 20, bright := 20 } }
    pointsA := 100, pointsB := 250, pointsC := 600
    tracks := [{ lo := 0, hi := 900 }, { lo := 900, hi := 1984 }]
    rows := Vector.replicate 16 row2
    orders := [{ length := 60000, grade := .a, value := 10, quantity := some 40 },
               { length := 22500, grade := .b, value := 4, quantity := none }] }

/-- The set as it is held, with acceptance serial 3. -/
def held : HeldSet := holdSet product 3

/-- Power-on with the line settings in force. -/
def lined : State := { State.reset with sst := { Store.reset with settings := some line } }

/-- The same with the journals placed. -/
def placed : State :=
  { lined with xch := { Exchange.reset with
      flaw := { Journal.reset with place := some line.flawPlace }
      plate := { Journal.reset with place := some line.platePlace }
      notice := { Journal.reset with place := some line.noticePlace } } }

/-- The same with a Current set and the gantry at 1,060,180 (section 6.11.1). -/
def loaded : State :=
  { placed with
    sst := { placed.sst with current := some held, requested := true }
    rtk := { placed.rtk with gantry := 1060180#48 } }

/-- A run in progress with F = 1,000,000, segment 56 its last (section 6.11). -/
def running : State :=
  { loaded with
    sst := { loaded.sst with run := .running }
    cpl := { Planner.reset with state := .planning, frontier := some 1000000, serial := 57 }
    out := { Outputs.reset with cuts := [{ position := 1000000, owner := some 56, due := false, deferred := false }] } }

/-- A state whose lane 0 is in the given state, expecting line 5 of trigger count 9, with nothing assembled. -/
def withLane (s : State) (st : LaneState) : State :=
  { s with
    rtk := { s.rtk with triggerCount := 9 }
    lanes := s.lanes.set 0 { Lane.reset with state := st, expected := if st.follows then some 5 else none } }

/-- A gate phase at its end after 285,714 µs (section 1.3.1). -/
def gateAtEnd : SpeedGate :=
  { SpeedGate.reset with phase := .gate, gateCounter := 0, timeCounter := 16491502, counted := true }

/-- A slip phase with 2,512 pulses, 100 µs before its end. -/
def slipping : SpeedGate := { SpeedGate.reset with phase := .slip, gateCounter := 2512, timeCounter := 16777116 }

/-- The settings' state with a speed gate. -/
def withGate (g : SpeedGate) : State := { placed with rtk := { placed.rtk with gate := g } }

/-- Section 1.3.1: the end of the gate phase publishes 7,000 rs/s. -/
theorem test_gate_phase_end :
    let g := (endGate (withGate gateAtEnd)).rtk.gate
    g.phase = .slip ∧ g.elapsed = 285714 ∧ g.speed = 7000 ∧ g.heldSpeed = 7000 ∧ g.timeCounter = 16491502 := by decide

/-- Section 6.11.1: the view of the step, with L_short 22,500 and L_span 60,000; c = 1,060,000 would let the step be made,
and here, no lane inspecting, c is the gantry position. -/
theorem test_plan_view :
    ((planView running).map fun v => (v.short, v.span, v.limit, v.urgent, v.spanClosed)) =
      some (22500, 60000, 930180, false, true) := by decide

/-- Section 6.8's first runout position: F = 3,400,000 with the commit limit at 3,419,500. -/
theorem test_runout_position :
    runoutPosition { settings := line, set := product, frontier := 3400000, closed := 0, limit := 3419500, boundary := none,
                     book := [] } = 3419501 := by decide

/-- R148: the sample set passes the checks against the sample line settings, which pass R145's. -/
theorem test_sample_settings_pass : checkSettings line = none := by decide
theorem test_sample_set_passes :
    checkSet line { set := product, trackCount := 2, ruleCount := 0, lineCount := 2, gradeCodes := [1, 2], clamped := [] } =
      none := by decide
/-- Section 8.1's example: the same settings with U 3,500 are refused with CULLET (6). -/
theorem test_cullet_refused :
    (checkSettings { line with urgencyMargin := 3500 }).map ImageRefusal.reason = some 6 := by decide

/-! ## Witnesses: states and operands that meet the statements' hypotheses, clause by clause -/

/-- A command goes on from a state. -/
def goesOn (c : Instr) (s : State) : Prop := ∃ t, exec c s = .next t

theorem witness_StepRunsTheFrontCommand :
    (State.reset.setPending [.forwardStep, .stall]).pending = .forwardStep :: [.stall] := rfl
theorem witness_StepRunsTheFrontCommand_idle_timer_runs : State.reset.Idle ∧ State.reset.xch.pollTimer ≠ 0 := by
  refine ⟨⟨rfl, rfl, rfl, by decide, rfl, rfl, rfl, rfl, rfl, rfl⟩, by decide⟩
theorem witness_StepRunsTheFrontCommand_idle_timer_out :
    let s : State := { State.reset with xch := { Exchange.reset with pollTimer := 0 } }
    s.Idle ∧ s.xch.pollTimer = 0 := by
  refine ⟨⟨rfl, rfl, rfl, by decide, rfl, rfl, rfl, rfl, rfl, rfl⟩, rfl⟩
theorem witness_CommandsLeaveTheQueue :
    goesOn .forwardStep State.reset ∧ ∃ t, StepsTo State.reset t := ⟨⟨_, rfl⟩, _, rfl⟩
theorem witness_ResetsStartAfresh_powerOn : (0x2#32).getLsbD 1 = true ∧ (0x2#32).getLsbD 0 = false := by decide
theorem witness_ResetsStartAfresh_reset :
    (0x1#32).getLsbD 0 = true ∧ (0x1#32).getLsbD 1 = false ∧ (0x3#32).getLsbD 0 = true ∧ (0x3#32).getLsbD 1 = true := by
  decide
/-- A section's baseline in the memory of a power-on. -/
def baseline (sec : RequestSection) : EditNumbers :=
  { seen := requestEdit State.reset.mem sec, accepted := requestEdit State.reset.mem sec }

/-- A journal's baseline in the memory of a power-on. -/
def baselineJournal (id : JournalId) : Journal := { Journal.reset with lastRead := requestReadCount State.reset.mem id }

/-- The state after power-on with the first poll's baselines, whose Request Block then stands unchanged. -/
def baselined : State :=
  { State.reset with
    xch := { Exchange.reset with
      firstPoll := false
      edits := #v[baseline .settings, baseline .productSet, baseline .lane, baseline .marker, baseline .tally,
        baseline .amendment, baseline .run]
      flaw := baselineJournal .flaw, plate := baselineJournal .plate, notice := baselineJournal .notice } }

theorem witness_PollsTakeWhatChanged_first :
    (finishStep (receiveWrites State.reset [])).xch.firstPoll = true ∧ State.reset.cpl.step = none ∧
      (0x2#32).getLsbD 1 = true ∧ (0x2#32).getLsbD 0 = false := by decide
theorem witness_PollsTakeWhatChanged_quiet :
    let u := finishStep (receiveWrites baselined [])
    u.xch.firstPoll = false ∧ (∀ sec : RequestSection, requestEdit u.mem sec = u.xch.edits[sec.index].seen) ∧
      ∀ id, requestReadCount u.mem id = (u.xch.journal id).lastRead := by
  refine ⟨rfl, fun sec => ?_, fun id => ?_⟩
  · cases sec <;>
      simp [finishStep, receiveWrites, baselined, baseline, RequestSection.index, ExchangeMemory.storeCells, State.reset,
        Planner.reset, State.setMem]
  · cases id <;>
      simp [finishStep, receiveWrites, baselined, baselineJournal, Exchange.journal, ExchangeMemory.storeCells, State.reset,
        Planner.reset, State.setMem]

theorem witness_EveryPollShowsTheState :
    State.reset.mem.wf = true ∧ (0x2#32).getLsbD 1 = true ∧ pollWait State.reset ≤ nextWait State.reset ∧
      State.reset.xch.expiryDue = false ∧ expired { State.reset with xch := { Exchange.reset with pollTimer := 0 } } = true ∧
      expired { State.reset with xch := { Exchange.reset with expiryDue := true } } = true := by decide

/-- A memory that lists bytes from an address upwards. -/
def listed (a : Nat) : List Byte → List Host.Cell
  | [] => []
  | b :: rest => (a, b) :: listed (a + 1) rest

/-- What precedes a listing does not hide it. -/
theorem readBytes_listed (g : Nat) (l : List Byte) (a : Nat) (before : List Host.Cell) (h : ∀ c ∈ before, c.1 < a) :
    (ExchangeMemory.mk g (before ++ listed a l)).readBytes a l.length = l := by
  induction l generalizing a before with
  | nil => rfl
  | cons b rest ih =>
    have look : ∀ pre : List Host.Cell, (∀ c ∈ pre, c.1 < a) →
        lookupCell (pre ++ (a, b) :: listed (a + 1) rest) a = some b := by
      intro pre
      induction pre with
      | nil => intro _; simp [lookupCell]
      | cons c pre ihp =>
        intro hp
        have hc : c.1 ≠ a := Nat.ne_of_lt (hp c (by simp))
        simp only [List.cons_append, lookupCell, hc, if_false]
        exact ihp fun d hd => hp d (by simp [hd])
    have next := ih (a + 1) (before ++ [(a, b)]) (by
      intro c hc
      rcases List.mem_append.1 hc with hc | hc
      · exact Nat.lt_succ_of_lt (h c hc)
      · simp at hc; simp [hc])
    simp only [List.append_assoc, List.singleton_append] at next
    simp only [listed, List.length_cons, ExchangeMemory.readBytes, List.cons.injEq]
    exact ⟨by simp [ExchangeMemory.read, look before h], next⟩

/-- Power-on with the Request Block's poll interval field 5. -/
def polledBefore : State := { State.reset with mem := { generation := 0, cells := [(0, 5), (1, 0)] } }

/-- The same with the Mark Block listed as it stands. -/
def polled : State :=
  { polledBefore with mem := { generation := 0, cells := [(0, 5), (1, 0)] ++ listed 0x1000 (markBytes polledBefore) } }

theorem witness_EveryPollShowsTheState_ended : PollEnded polled := by
  refine ⟨?_, rfl, rfl⟩
  have h := readBytes_listed 0 (markBytes polledBefore) 0x1000 [(0, 5), (1, 0)] (by decide)
  rw [show (markBytes polledBefore).length = 0x1000 from layout_length _ _] at h
  exact h

/-- A Request Block in which every section has edit number 1 and the rest is 0, over a part that has seen 0. -/
def edited : State :=
  { placed with
    xch := { placed.xch with firstPoll := false }
    mem := { generation := 0, cells := listed 0 (layout 256
      [(0x40, le 4 1), (0x48, le 4 1), (0x50, le 4 1), (0x58, le 4 1), (0x60, le 4 1), (0x70, le 4 1), (0x80, le 4 1),
       (0x90, [23]), (0xA8, [24]), (0xC0, [14, 3])]) } }

theorem witness_PollPassesChangedSections :
    (∀ sec : RequestSection, requestEdit edited.mem sec ≠ edited.xch.edits[sec.index].seen) ∧
      (finishStep (receiveWrites edited [])).xch.firstPoll = false ∧
      requestEdit baselined.mem .run = baselined.xch.edits[RequestSection.run.index].seen := by
  refine ⟨fun sec => ?_, rfl, rfl⟩
  cases sec <;> decide

/-- Each lane state, of a fitted lane that the mask enables and of one that it does not, with a tune asked for and not. -/
theorem witness_LaneSectionIsTaken :
    placed.sst.settings = some line ∧ line.lanes[0].fitted = true ∧ (0x1#12).getLsbD 0 = true ∧ (0x1#12).getLsbD 1 = false ∧
      line.lanes[2].fitted = false ∧ (∀ st : LaneState, ((withLane placed st).lane 0).state = st) ∧
      LaneState.live.inspecting = true := by
  refine ⟨rfl, rfl, rfl, rfl, rfl, fun st => ?_, rfl⟩
  cases st <;> rfl

/-- A tally section that asks for shift 1 and leaves every counter as a reset has it but for counter 0. -/
def tallies (shift : BitVec 32) : TallySection :=
  { clear := 0x3, freeze := true, shift := shift,
    configs := (Vector.replicate 16 TallyConfig.reset).set 0 { TallyConfig.reset with kind := .glassAbsent, mode := .edge } }

theorem witness_TallySectionIsTaken :
    (tallies 1).shift ≠ placed.tly.shiftTaken ∧ placed.tly.snapshot = none ∧ (tallies 0).shift = placed.tly.shiftTaken ∧
      placed.tly.counters[0].config ≠ (tallies 1).configs[0] ∧ placed.tly.counters[1].config = (tallies 1).configs[1] ∧
      (tallies 1).configs[0].mode = .edge ∧ (tallies 1).configs[1].mode ≠ .edge ∧
      { TallyConfig.reset with clearAtShiftEnd := true }.clearAtShiftEnd = true ∧
      edited.mem.readLe 0x90 1 = 23 ∧ edited.mem.readLe 0xA8 1 = 24 ∧ (requestConfig edited.mem 1).kind.isLevel = false ∧
      (requestConfig edited.mem 2).kind.isLevel = true := by decide

theorem witness_AttentionLineFollows :
    LineFollows { State.reset with xch := { Exchange.reset with attn := 8, attnEn := 8, line := true } } ∧
      LineFollows { State.reset with xch := { Exchange.reset with attn := 8, attnEn := 7, line := false } } ∧
      goesOn (.attnEnWrite 0x10#32) State.reset ∧ goesOn (.attnWrite 0x10#32) State.reset := by
  exact ⟨by unfold LineFollows; decide, by unfold LineFollows; decide, ⟨_, rfl⟩, _, rfl⟩

/-! ### The ribbon -/

/-- One step short of the trigger point of trigger 1. -/
def beforeTrigger : State := { placed with rtk := { placed.rtk with gantry := 1 } }

theorem witness_GantryMovesByForwardSteps :
    gateEndDue beforeTrigger = false ∧ stallDue beforeTrigger = false ∧ slipEndDue beforeTrigger = false ∧
      beforeTrigger.rtk.gantry + 1 =
        beforeTrigger.rtk.triggerBase + (beforeTrigger.rtk.triggerCount + 1) * BitVec.ofNat 48 (linePitch beforeTrigger) ∧
      Instr.reverseStep ≠ .powerOn ∧ Instr.reverseStep ≠ .forwardStep ∧ goesOn .reverseStep beforeTrigger := by
  exact ⟨by decide, by decide, by decide, by decide, by decide, by decide, _, rfl⟩

/-- A flaw over [130,000, 130,010) and X [8,000, 8,012) (section 5.8's flaw 1). -/
def flaw1 : Flaw :=
  { number := 1, lane := 0, flawClass := 2, views := 0b011#3, polarities := 0b11#2, yStart := 130000, yEnd := 130010,
    xMin := 8000, xEnd := 8012, size := 12, area := 60, peak := 60, aspect := 13, tracks := 0b0001#4, split := false,
    truncated := false, spilled := false, mark := none, continuedFrom := none }

theorem witness_ForwardStepReleases_flaws :
    goesOn .forwardStep placed ∧ placed.fas.map.length ≤ 2048 ∧
      (List.replicate 2048 (MapEntry.mk flaw1 false)).length ≤ 2048 := by
  exact ⟨⟨_, rfl⟩, by decide, by rw [List.length_replicate]⟩

/-- Lane 4's stretch of section 4.9.1, open from 6,000,120. -/
def blind : State :=
  { lined with cov := { Coverage.reset with
      serial := 42, entered := 1
      list := [{ number := 41, causes := Cause.lane.bit, tracks := 0b0010#4, yStart := 6000120, yEnd := none,
                 openCauses := Cause.lane.bit, closedEnd := none, lane := some 4, order := 0 }]
      lane := { tracks := 0b0010#4, part := some { start := 6000120, carrier := 0 } } } }

/-- A closed stretch that ends at the cutter position, and one that ends a ribbon step ahead of it. -/
def behind (stop : Pos) : Incoming := { cause := .gap, tracks := 0b0001#4, yStart := -160000, yEnd := some stop, lane := none }

theorem witness_ForwardStepReleases_stretches :
    goesOn .forwardStep blind ∧ (blind.cov.causeState .lane).part = some { start := 6000120, carrier := 0 } ∧
      (closePart blind .lane 6000121).cov.list.map (fun e => (e.order, e.openCauses, e.yEnd)) =
        [(0, 0, some 6000121)] ∧
      (behind (-150000)).yEnd = some (-150000) ∧ passedCutter blind (-150000) = true ∧
      passedCutter blind (-149999) = false := by
  exact ⟨⟨_, rfl⟩, rfl, by decide, rfl, by decide, by decide⟩

theorem witness_LeadsFollowTheHeldSpeed_tests :
    goesOn .forwardStep placed ∧ gateEndDue (withGate gateAtEnd) = true ∧ goesOn .gatePhaseEnd (withGate gateAtEnd) := by
  exact ⟨⟨_, rfl⟩, by decide, _, rfl⟩

/-- A gate phase at its end in the first microsecond. -/
def gateAtOnce : SpeedGate := { SpeedGate.reset with phase := .gate }

/-- A gate phase that runs, and one whose stall is already reported. -/
def gateRuns : SpeedGate := { SpeedGate.reset with phase := .gate, gateCounter := 16775216, timeCounter := 7, counted := true }

theorem witness_GatePhases_end :
    (withGate gateAtEnd).sst.settings = some line ∧ gateAtEnd.phase = .gate ∧ gateAtEnd.gateCounter = 0 ∧
      ¬ (gateAtEnd.counted = true ∧ gateAtEnd.timeCounter = 0) ∧ gateAtOnce.phase = .gate ∧ gateAtOnce.gateCounter = 0 ∧
      ¬ (gateAtOnce.counted = true ∧ gateAtOnce.timeCounter = 0) ∧ gateEndDue (withGate gateRuns) = false := by
  exact ⟨rfl, rfl, rfl, by decide, rfl, rfl, by decide, by decide⟩

theorem witness_GatePhases_stall :
    (withGate gateRuns).sst.settings = some line ∧ gateRuns.phase = .gate ∧ gateEndDue (withGate gateRuns) = false ∧
      stallWait gateRuns ≤ nextWait (withGate gateRuns) ∧ gateRuns.stalled = false ∧
      (withGate gateRuns).xch.notice.roomFor 1 = true ∧ lined.xch.notice.roomFor 1 = false ∧
      stallWait { gateRuns with stalled := true } ≤ nextWait (withGate { gateRuns with stalled := true }) := by
  exact ⟨rfl, rfl, by decide, by decide, rfl, by decide, by decide, by decide⟩

/-- A slip phase whose counter is full. -/
def slipFullGate : SpeedGate := { slipping with gateCounter := BitVec.allOnes 24 }

theorem witness_SlipPhases :
    slipEndDue (withGate slipping) = false ∧ slipFull (withGate slipping) = false ∧ slipping.phase = .slip ∧
      State.reset.rtk.gate.phase = .stopped ∧ gateEndDue (withGate gateRuns) = false ∧ stallDue (withGate gateRuns) = false ∧
      slipWait slipping ≤ nextWait (withGate slipping) ∧ slipFullGate.gateCounter = BitVec.allOnes 24 ∧
      slipFullGate.phase = .slip ∧ (withGate slipFullGate).sst.settings = some line := by
  exact ⟨by decide, by decide, rfl, rfl, by decide, by decide, by decide, rfl, rfl, rfl⟩

/-- A slip phase whose 2,550 pulses give 20 permille, and one whose alarm is raised. -/
def slippingFar : SpeedGate := { slipping with gateCounter := 2550 }

theorem witness_SlipPhases_raised :
    slipOf 2512 2500 = 4 ∧ (4 : Int).natAbs ≤ line.slipLimit ∧ slipOf slippingFar.gateCounter.toNat 2500 = 20 ∧
      line.slipLimit < (20 : Int).natAbs ∧ slippingFar.slipAlarm = false ∧
      { slippingFar with slipAlarm := true }.slipAlarm = true ∧ (withGate slippingFar).xch.notice.roomFor 1 = true ∧
      lined.xch.notice.roomFor 1 = false ∧ slipEndDue (withGate slipFullGate) = false ∧
      slipWait slippingFar ≤ nextWait (withGate slippingFar) := by decide

theorem witness_LeadsFollowTheHeldSpeed : lined.sst.settings = some line ∧ lined.rtk.gate.heldSpeed = 0 := ⟨rfl, rfl⟩

/-- Eight values that reach the level 100 after two that do not, and after three. -/
def columns : List Nat := [0, 99, 100, 100, 101, 102, 103, 104, 105, 106, 107]

/-- R12 by hand: the first eight from the lowest X start at 2, the first from the highest X end at 11. -/
theorem test_find_edge :
    findEdge .drive 100 1000 1011 columns = some 1002 ∧ findEdge .operator 100 1000 1011 columns = some 1011 ∧
      findEdge .drive 100 1000 1007 (columns.take 9) = none := by decide

/-- A set that arms and disarms after 10 rs, its tracks an edge margin of 10 from the drive edge at 10. -/
def arming : HeldSet :=
  { held with set := { product with minWidth := 100, armLength := 10, absenceLength := 10, widthMargin := 10 } }
/-- The results of a line with both edges, and of one without the operator's. -/
def edgeAt (x : Nat) (found : Bool) : EdgeResult := { line := 9, found := found, filtered := 16 * x }
/-- A run whose tracker has the given presence and streak. -/
def present (p : Presence) (streak : Option Pos) : State :=
  { running with rtk := { running.rtk with presence := p, streak := streak, violated := if p = .armed then 1 else 0 } }

theorem witness_ObservationsAreJudged :
    (edgeAt 10 true).filtered / 16 + 100 ≤ (edgeAt 110 true).filtered / 16 ∧
      ¬ (edgeAt 10 true).filtered / 16 + 100 ≤ (edgeAt 109 true).filtered / 16 ∧
      linePos (present .disarmed none) 9 + linePitch (present .disarmed none) - linePos (present .disarmed none) 9 < 10 ∧
      (10 : Int) ≤ linePos (present .disarmed (some 10)) 9 + linePitch (present .disarmed (some 10)) - 10 ∧
      (present .armed none).rtk.presence = .armed ∧ (present .disarmed none).rtk.presence = .disarmed ∧
      (present .armed none).sst.current = some held ∧ (present .armed none).sst.next = none ∧
      (present .armed none).sst.run ≠ .halted ∧ checkTracks arming.set 10 1990 0 = 0b0011#4 ∧
      (0b0011#4 : TrackSet) ≠ (present .armed none).rtk.violated ∧ checkTracks arming.set 10 1994 0 = 0b0001#4 := by
  decide

/-! ### Tallies -/

/-- R161's example after its second runout cut: a counter one short of its wrap. -/
def nearWrap : Counter :=
  { value := 1099511627775, overflow := false, seen := none,
    config := { TallyConfig.reset with kind := .runoutCut, mask := 1, wrapAttention := true, clearAtShiftEnd := true } }

/-- An EDGE counter on lanes 4 and 5 (R163's example), and a LEVEL counter on the same. -/
def edgeCounter : Counter :=
  { value := 0, overflow := false, seen := some 0,
    config := { TallyConfig.reset with kind := .laneNotInspecting, mask := 0x30, mode := .edge } }
def levelCounter : Counter :=
  { value := 0, overflow := false, seen := none,
    config := { TallyConfig.reset with kind := .laneNotInspecting, mask := 0x30, mode := .level } }

/-- A state with one counter in place of counter 0. -/
def counting (c : Counter) : State := { placed with tly := { placed.tly with counters := placed.tly.counters.set 0 c } }

/-- R161's example: the third runout cut wraps the counter to 0, sets its flag and raises TALLY_WRAP. -/
theorem test_wrap :
    let t := tallyEvent (counting nearWrap) .runoutCut 0 none
    t.tly.counters[0].value = 0 ∧ t.tly.counters[0].overflow = true ∧ t.xch.attn = 0x10 := by decide

theorem witness_TallyEventsCount :
    TallyKind.runoutCut ≠ .none ∧ TallyKind.runoutCut.isLevel = false ∧ (counting nearWrap).tly.freeze = false ∧
      nearWrap.config.kind = .runoutCut ∧ nearWrap.config.mask.getLsbD (0 % 16) = true ∧
      nearWrap.config.mask.getLsbD (17 % 16) = false ∧ 2 ^ 40 ≤ nearWrap.value.toNat + 1 ∧
      nearWrap.config.wrapAttention = true ∧ nearWrap.config ≠ TallyConfig.reset ∧ nearWrap.config.clearAtShiftEnd = true := by
  decide

theorem witness_LevelsAreCounted_level :
    levelCounter.config.mode = .level ∧ levelCounter.config.kind.isLevel = true ∧
      goesOn .forwardStep (counting levelCounter) ∧ goesOn .reverseStep (counting levelCounter) := by
  exact ⟨rfl, rfl, ⟨_, rfl⟩, _, rfl⟩

theorem witness_EdgeCountersSeeEveryLevel :
    let s := counting { edgeCounter with seen := some (levels placed .laneNotInspecting) }
    EdgeCountersSee s ∧ goesOn .forwardStep s ∧ ∃ t, StepsTo s t := by
  refine ⟨?_, ⟨_, rfl⟩, _, rfl⟩
  unfold EdgeCountersSee
  decide

theorem witness_LevelsAreCounted_edge :
    edgeCounter.config.mode = .edge ∧ edgeCounter.seen = some 0 ∧ levelCounter.config.mode ≠ .edge ∧
      levelCounter.seen = none ∧ edgeCounter.config ≠ levelCounter.config := by decide

/-- A shift is asked for, and one whose snapshot is pending. -/
def shiftAsked : State := { placed with tly := { placed.tly with requestedShift := 1 } }
def snapshotPending : State :=
  { shiftAsked with tly := { shiftAsked.tly with shiftTaken := 1, snapshot := some (snapshotNow shiftAsked) } }

theorem witness_ShiftsAreTaken : shiftDue shiftAsked = true ∧ shiftDue snapshotPending = false := by decide
theorem witness_ShiftsAreTaken_written :
    snapshotPending.tly.snapshot.isSome = true ∧ snapshotPending.xch.notice.roomFor 1 = true ∧
      snapshotPending.tly.requestedShift = snapshotPending.tly.shiftTaken ∧ snapshotDue placed = false := by decide

/-- A pending snapshot with a further shift asked for, under a notice journal that holds n unread records. -/
def furtherShift (n : BitVec 32) : State :=
  { snapshotPending with tly := { snapshotPending.tly with requestedShift := 2 }
                         xch := { placed.xch with notice := { placed.xch.notice with writeCount := n } } }

theorem witness_ShiftsAreTaken_further (n : BitVec 32) (h : n = 14 ∨ n = 15) :
    (2 : BitVec 32) ≠ (furtherShift n).tly.shiftTaken ∧ (furtherShift n).tly.requestedShift = 2 ∧ (furtherShift n).xch.notice.bounded ∧
      (furtherShift n).xch.notice.roomFor 1 = true ∧ (furtherShift 14).xch.notice.roomFor 2 = true ∧
      (furtherShift 15).xch.notice.roomFor 2 = false := by
  refine ⟨by show (2 : BitVec 32) ≠ 1; decide, rfl, ?_, ?_, by decide, by decide⟩
  · intro p hp
    have : p = place 0x30000 := (Option.some.inj hp).symm
    subst this
    rcases h with rfl | rfl <;> decide
  · rcases h with rfl | rfl <;> decide

/-! ### The camera lanes -/

/-- The CRC of R22 (all ones at the start, no inversion) of the nine digits 1 to 9, by hand 29B1 hexadecimal. -/
theorem test_crc : crc16 [0x31, 0x32, 0x33, 0x34, 0x35, 0x36, 0x37, 0x38, 0x39] = 0x29B1#16 := by decide

/-- A packet of lane 0 with two pixels, 100 and 1,023, for line 5, written out byte by byte: the header's nine bytes sum
to 256 (F9 hexadecimal makes up for 00 + 00 + 05 + 00 + 00 + 00 + 02 + 00). The footer is the CRC of the payload, least
significant byte first. -/
theorem test_packet_bytes :
    checkPacket 0 2 ([0x00, 0x00, 0x05, 0x00, 0x00, 0x00, 0x02, 0x00, 0xF9, 0x64, 0x00, 0xFF, 0x03] ++
        le 2 (crc16 [0x64, 0x00, 0xFF, 0x03]).toNat) = .trusted 5 .transmitted (some [100, 1023]) ∧
      checkPacket 0 2 [0x00, 0x00, 0x05, 0x00, 0x00, 0x00, 0x02, 0x00, 0xF9, 0x64, 0x00, 0xFF, 0x03, 0x00, 0x00] =
        .trusted 5 .transmitted none ∧
      checkPacket 0 2 [0x00, 0x00, 0x05, 0x00, 0x00, 0x00, 0x02, 0x00, 0xFA, 0x64, 0x00, 0xFF, 0x03, 0x00, 0x00] =
        .headerError := by decide

/-- Line settings with two pixels in lane 0, to keep the packets of the witnesses short. -/
def short : LineSettings :=
  { line with lanes := line.lanes.set 0 { fitted := true, direction := 1, pixels := 2, origin := 0 } }

/-- A state with those settings and lane 0 in a state, expecting line 5 with trigger 9 issued. -/
def atLane (st : LaneState) : State := withLane { placed with sst := { placed.sst with settings := some short } } st

/-- The same with the given views seen already. -/
def atLaneSeen (views : PerView ViewEntry) : State :=
  let s := atLane .live
  { s with lanes := s.lanes.set 0 { s.lanes[0] with assembly := { views := views, spoilt := false } } }

/-- A packet of lane 0 for a line and a view, good or with a payload error. -/
def packet (n : Nat) (v : View) : List Byte := packetOf 0 n v [100, 1023]
def packetBad (n : Nat) : List Byte := packetOf 0 n .transmitted [100, 1024]

theorem witness_PacketsAtALane_unfollowed :
    (State.reset.lane 0).state = .off ∧ ((atLane .waitSignal).lane 0).state ≠ .off ∧
      ((atLane .waitSignal).lane 0).state.follows = false ∧
      checkPacket 0 (geometry (atLane .waitSignal) 0).pixels [] = .headerError ∧
      checkPacket 0 (geometry (atLane .waitSignal) 0).pixels (packetBad 5) = .trusted 5 .transmitted none := by decide

theorem witness_PacketsAtALane_followed :
    let s := atLane .live
    (s.lane 0).state.follows = true ∧ (s.lane 0).expected = some 5 ∧
      checkPacket 0 (geometry s 0).pixels [] = .headerError ∧
      checkPacket 0 (geometry s 0).pixels (packet 4 .transmitted) = .trusted 4 .transmitted (some [100, 1023]) ∧
      lineDifference 4 5 < 0 ∧
      checkPacket 0 (geometry s 0).pixels (packet 10 .transmitted) = .trusted 10 .transmitted (some [100, 1023]) ∧
      0 ≤ lineDifference 10 5 ∧ (s.rtk.triggerCount.toNat : Int) < (5 : Nat) + lineDifference 10 5 ∧
      checkPacket 0 (geometry s 0).pixels (packet 5 .scattered) = .trusted 5 .scattered (some [100, 1023]) ∧
      lineDifference 5 5 = 0 ∧ ¬ ((s.rtk.triggerCount.toNat : Int) < (5 : Nat) + lineDifference 5 5) ∧
      (s.lane 0).assembly.views.get .scattered = .notSeen ∧
      ((s.lane 0).assembly.enter .scattered (some [100, 1023])).allSeen = false := by decide

theorem witness_PacketsAtALane_seen :
    let s := atLaneSeen { transmitted := .spoilt, reflected := .notSeen, scattered := .notSeen }
    (s.lane 0).state.follows = true ∧ (s.lane 0).expected = some 5 ∧
      (s.lane 0).assembly.views.get .transmitted ≠ .notSeen := by decide

theorem witness_PacketsAtALane_acquires :
    let s := atLane .waitSignal
    (s.lane 0).state = .waitSignal ∧ ((atLane .lost).lane 0).state = .lost ∧ s.sst.settings.isSome = true ∧
      checkPacket 0 (geometry s 0).pixels (packet 9 .transmitted) = .trusted 9 .transmitted (some [100, 1023]) ∧
      (9 + 2 ^ 32 - 9 % 2 ^ 32) % 2 ^ 32 ≤ s.rtk.triggerCount.toNat ∧
      checkPacket 0 (geometry s 0).pixels (packet 10 .transmitted) = .trusted 10 .transmitted (some [100, 1023]) ∧
      s.rtk.triggerCount.toNat < (9 + 2 ^ 32 - 10 % 2 ^ 32) % 2 ^ 32 ∧ boundaryAhead s = none := by decide

theorem witness_LinesPassInOrder :
    let s := atLaneSeen { transmitted := .spoilt, reflected := .spoilt, scattered := .notSeen }
    (s.lane 0).state.follows = true ∧ (s.lane 0).expected = some 5 ∧
      checkPacket 0 (geometry s 0).pixels (packet 9 .scattered) = .trusted 9 .scattered (some [100, 1023]) ∧
      0 < lineDifference 9 5 ∧ (5 : Nat) + lineDifference 9 5 ≤ s.rtk.triggerCount.toNat ∧
      checkPacket 0 (geometry s 0).pixels (packet 5 .scattered) = .trusted 5 .scattered (some [100, 1023]) ∧
      (s.lane 0).assembly.views.get .scattered = .notSeen ∧
      ((s.lane 0).assembly.enter .scattered (some [100, 1023])).allSeen = true := by decide
theorem witness_LinesPassInOrder_step (bytes : List Byte) : goesOn (.linePacket 0 bytes) (atLane .live) := ⟨_, rfl⟩

theorem witness_PacketRoundTrip :
    4294967295 < 2 ^ 32 ∧ [0, 1023, 1024, 65535].length < 2 ^ 16 ∧ (∀ p ∈ [0, 1023, 1024, 65535], p < 2 ^ 16) ∧
      (1 : LaneId) ≠ 0 ∧ 3 ≠ [0, 1023, 1024, 65535].length := by decide

/-- A run in progress with lanes 0 and 1 in the given states: their seam lies at X = 992. -/
def twoLanes (a b : LaneState) : State :=
  { running with lanes := (running.lanes.set 0 { Lane.reset with state := a, expected := some 9 }).set 1
                            { Lane.reset with state := b, expected := some 9 } }

/-- An open blob over an X extent. -/
def blobAt (x : Nat × Nat) : Blob :=
  { yStart := 1060000, lastLine := 530010, recentStart := x.1, recentEnd := x.2, extent := some x, views := 0b001#3,
    polarities := 0b01#2, peak := 40, count := 60, continuedFrom := none, order := 0 }

/-- A run with lane 0 in a state, expecting line 530,090 (the gantry position), with a bad run of n lines. -/
def badRun (st : LaneState) (n : Nat) : State :=
  let l : Lane :=
    { Lane.reset with state := st, expected := some 530090, badRun := some { first := 530080, length := n },
                      window := some { start := 525994, count := 40 }, lastAcceptance := some 1055181,
                      settleStart := some 1059181 }
  { running with lanes := running.lanes.set 0 l }

/-- A lane that inspects and one that does not; a set in force and none; a bad run within the tolerance of 4 and beyond;
a window that the expected line has reached the end of and one short of it, with a count at the threshold and above. -/
theorem witness_LinesLeadToTheirWork :
    ((badRun .live 4).lane 0).state.inspecting = true ∧ ((badRun .settling 4).lane 0).state.inspecting = false ∧
      ((badRun .fault 4).lane 0).state = .fault ∧ (setAt (badRun .live 4) (linePos (badRun .live 4) 530090)).isSome = true ∧
      setAt (withLane lined .live) 0 = none ∧ (badRun .live 4).sst.settings = some line ∧ 4 ≤ line.gapTolerance ∧
      line.gapTolerance < 5 ∧ (badRun .live 5).sst.run ≠ .halted ∧ (badRun .live 5).sst.current = some held ∧
      (badRun .live 5).sst.next = none ∧ lined.sst.run = .halted ∧ gapMask (badRun .live 5) 0 1060160 ≠ 0 ∧
      gapMask (twoLanes .live .live) 2 1060160 = 0 ∧ 525994 + line.errorWindow ≤ 530090 ∧
      530090 < 525995 + line.errorWindow ∧ ¬ line.errorThreshold < 40 ∧ line.errorThreshold < 41 ∧
      8 ≤ line.recoverThreshold := by decide

/-- At 1,060,180 a lane last accepted at 1,055,181 is a step short of stale, and one accepted a step earlier is stale; one
that settles from 1,059,181 has not settled yet, and one from a step earlier has. -/
theorem witness_SettlingAndStaleness :
    (badRun .settling 0).sst.settings = some line ∧ ¬ (line.staleDistance : Int) ≤ 1060180 - 1055181 ∧
      (line.staleDistance : Int) ≤ 1060180 - 1055180 ∧ ¬ (line.settleLength : Int) ≤ 1060180 - 1059181 ∧
      (line.settleLength : Int) ≤ 1060180 - 1059180 ∧
      ((nextLine (badRun .settling 0) 0).bind (setAt (badRun .settling 0))).isSome = true ∧
      (nextLine (withLane lined .settling) 0).bind (setAt (withLane lined .settling)) = none ∧
      line.tuneOnSettle = false ∧ held.set.retune = false ∧ Lane.reset.tunePending = false ∧
      goesOn .forwardStep (badRun .settling 0) ∧
      (line.staleDistance : Int) ≤ ((badRun .live 0).rtk.gantry + 1).toNat - 1055181 ∧
      (line.settleLength : Int) ≤ ((badRun .settling 0).rtk.gantry + 1).toNat - 1059181 ∧
      ((badRun .settling 0).rtk.gantry + 1).toNat - 1055182 < (line.staleDistance : Int) := by
  exact ⟨rfl, by decide, by decide, by decide, by decide, by decide, by decide, rfl, rfl, rfl, ⟨_, rfl⟩, by decide, by decide,
    by decide⟩

theorem witness_LiveIsEnteredAndLeft :
    ((twoLanes .tuning .live).lane 0).expected = some 9 ∧ 1 ≤ linePitch running ∧ (twoLanes .tuning .live).sst.run ≠ .halted ∧
      (twoLanes .tuning .live).sst.current = some held ∧ (twoLanes .tuning .live).sst.next = none ∧
      (atLane .tuning).sst.run = .halted ∧ ((twoLanes .live .live).lane 0).state.inspecting = true ∧
      ((twoLanes .tuning .live).lane 0).state.inspecting = false ∧ edgeLane running .drive = some 0 ∧
      edgeLane running .operator ≠ some 2 ∧ edgeLane running .drive ≠ some 2 ∧ openBlobs (withLane lined .live) 0 = [] ∧
      ({ lo := 0, hi := 900 } : Track).lo < 900 := by decide

/-- The pairing: a side that finds the other's result for line 9, one that the other has passed at line 8, one that waits
at line 9, and a full list; and a lane that serves no side. -/
theorem witness_EdgesAreFoundAndPaired :
    let s := twoLanes .live .live
    ([edgeAt 10 true].find? fun x => decide (x.line = 9)) = some (edgeAt 10 true) ∧
      (∀ r ∈ (s.rtk.side .operator).pending, r.line ≠ 9) ∧ edgeLane s .operator = some 1 ∧ nextLine s 1 = some 18 ∧
      linePos s 8 < 18 ∧ ¬ linePos s 9 < 18 ∧ 64 ≤ (List.replicate 64 (edgeAt 10 true)).length ∧
      ¬ 64 ≤ (s.rtk.side .drive).pending.length ∧ serves s 2 .drive = false ∧ serves s 2 .operator = false ∧
      (EdgeSide.reset.update 2 (some 1200)).found = true ∧ EdgeSide.reset.found = false := by decide

/-- A tune at code 30 in its last pass or before, whose dwell of 16 lines began at line n. -/
def tuningAt (n passes outside : Nat) (judged : Bool) : State :=
  let u : Tune := { trial := 30, passes := passes, dwellStart := n, outside := outside, judged := judged }
  { running with
    lanes := running.lanes.set 0 { Lane.reset with state := .tuning, expected := some 530090, tune := some u } }

theorem witness_LevelSearch :
    let s := tuningAt 530074 0 0 true
    let ls : LineSettings := { line with gainCeiling := 31, bandLow := 500, bandHigh := 600 }
    s.sst.settings = some line ∧ (s.lane 0).state = .tuning ∧ (setAt s (linePos s 530082)).isSome = true ∧
      530074 + line.dwell / 2 ≤ 530082 ∧ 530082 < 530074 + line.dwell ∧ ¬ 530074 + line.dwell / 2 ≤ 530081 ∧
      530074 + line.dwell ≤ 530090 ∧ 530090 < 530075 + line.dwell ∧ 0 ≤ line.dwellTolerance ∧
      ¬ 1 ≤ line.dwellTolerance ∧ 30 + ls.gainStep ≤ ls.gainCeiling ∧ line.gainCeiling < 30 + line.gainStep ∧ 1 + 1 < 3 ∧
      3 ≤ 2 + 1 ∧ ls.bandLow ≤ 500 ∧ 600 ≤ ls.bandHigh ∧ 499 < ls.bandLow ∧ ls.bandHigh < 601 := by decide

/-! ### Pixels, runs and marks -/

theorem witness_PixelsAreMarked :
    let t : Thresholds := { dark := 20, bright := 20 }
    1 ≤ t.dark ∧ 1 ≤ t.bright ∧ ((580 : Nat) : Int) - (38400 / 64 : Nat) ≤ -(t.dark : Int) ∧
      (t.bright : Int) ≤ ((620 : Nat) : Int) - (38400 / 64 : Nat) ∧ -(t.dark : Int) < ((581 : Nat) : Int) - (38400 / 64 : Nat) ∧
      ((619 : Nat) : Int) - (38400 / 64 : Nat) < t.bright ∧ markPixel t 580 38400 ≠ .plain ∧
      markPixel t 619 38400 = .plain ∧ 619 ≤ 1023 ∧ 38400 ≤ 65472 ∧
      0 ≤ (((612 : Nat) : Int) - 40) * (256 + 32 : Nat) / 256 ∧ (((612 : Nat) : Int) - 40) * (256 + 32 : Nat) / 256 ≤ 1023 := by
  decide

/-- Runs one pixel wide at every other X. -/
def manyRuns (n : Nat) : List Run :=
  (List.range n).map fun k =>
    { view := .transmitted, xStart := 2 * k, xEnd := 2 * k + 1, polarities := 0b01#2, peak := 30 + k, count := 1 }

theorem witness_RunLimit_formed : ∀ r ∈ manyRuns 5, r.xStart < r.xEnd := by decide
theorem witness_RunLimit :
    (manyRuns 32).length ≤ 32 ∧ 32 < (manyRuns 33).length ∧ (∀ r ∈ manyRuns 33, r.xStart < r.xEnd) ∧
      (manyRuns 33).Pairwise fun a b => a.xEnd ≤ b.xStart := by decide

/-! ### Flaws and coverage -/

/-- The rules of section 3.6.1. -/
def rules : List ClassRule :=
  [{ flawClass := 3, required := 0b001#3, forbidden := 0, polarity := .dark, sizeMin := 4, sizeMax := 400, aspectMin := 0,
     peakMin := 100 },
   { flawClass := 7, required := 0b100#3, forbidden := 0, polarity := .any, sizeMin := 50, sizeMax := 65535, aspectMin := 64,
     peakMin := 0 },
   { flawClass := 2, required := 0b011#3, forbidden := 0, polarity := .any, sizeMin := 2, sizeMax := 2000, aspectMin := 0,
     peakMin := 20 }]

/-- Section 3.6.1: the bubble is of class 2, the scratch of class 7. -/
theorem test_classes :
    classify rules { flaw1 with size := 18, aspect := 20 } = 2 ∧
      classify rules { flaw1 with views := 0b100#3, polarities := 0b10#2, size := 6000, aspect := 255, peak := 90 } = 7 := by
  decide

theorem witness_FirstRuleClassifies :
    (∀ x ∈ rules.take 2, x.admits { flaw1 with size := 18, aspect := 20 } = false) ∧
      (rules.getD 2 default).admits { flaw1 with size := 18, aspect := 20 } = true ∧
      (∀ x ∈ rules, x.admits { flaw1 with size := 1 } = false) ∧
      ({ (rules.getD 0 default) with sizeMin := 401 } : ClassRule).sizeMax <
        ({ (rules.getD 0 default) with sizeMin := 401 } : ClassRule).sizeMin := by decide

theorem witness_SeamDuplicates :
    let s := twoLanes .live .live
    ownedRange s 0 = (0, 992) ∧ ownedRange s 1 = (992, 1984) ∧ (blobAt (980, 1004)).extent = some (980, 1004) ∧
      (980 + 1004) / 2 = 992 ∧ (980 + 1003) / 2 = 991 := by decide

theorem witness_SeamDuplicates_ranges :
    lined.sst.settings = some line ∧ fittedInX line = [] ++ 0 :: 1 :: [] ∧
      ((twoLanes .live .degraded).lane 0).state.inspecting = true ∧
      ((twoLanes .live .degraded).lane 1).state.inspecting = true ∧
      ((twoLanes .lost .tuning).lane 0).state.inspecting = false ∧
      ((twoLanes .lost .tuning).lane 1).state.inspecting = false := by
  exact ⟨rfl, by decide, by decide, by decide, by decide, by decide⟩

theorem witness_BlobCloses :
    let s := twoLanes .live .live
    (blobAt (980, 1003)).extent = some (980, 1003) ∧ (ownedRange s 0).1 ≤ (980 + 1003) / 2 ∧
      (980 + 1003) / 2 < (ownedRange s 0).2 ∧
      passedCutter s (linePos s (blobAt (980, 1003)).lastLine + linePitch s) = false ∧ s.fas.map.length < 2048 ∧
      passedCutter s (linePos s 0 + linePitch s) = true ∧ s.xch.flaw.roomFor 1 = true ∧
      { s with xch := Exchange.reset }.xch.flaw.roomFor 1 = false := by decide

/-- 32 entries, entry 88 the last of them. -/
def fullList : List Stretch :=
  ((List.range 31).map fun n => { entry88 with number := BitVec.ofNat 32 n, order := n }) ++ [entry88]
def fullCoverage : State := { placed with cov := { Coverage.reset with list := fullList, serial := 89, entered := 32 } }

theorem witness_FoldCoversBoth :
    fullCoverage.cov.list.getLast? = some entry88 ∧ 32 ≤ fullCoverage.cov.list.length ∧
      passedCutter fullCoverage 7100620 = false ∧ entry88.meets 7100039 7100040 = true ∧
      entry88.yEnd = some 7100040 := by decide

theorem witness_ClosedPositionIsBehind :
    let s := twoLanes .live .live
    (s.lane 0).state.inspecting = true ∧ nextLine s 0 = some 18 ∧
      blobAt (10, 20) ∈ openBlobs (setBlobs s 0 [blobAt (10, 20)]) 0 ∧
      ∀ i : LaneId, (State.reset.lane i).state.inspecting = false := by decide

/-- A run with lane 0 alone, and Next effective at 1,500,000. -/
def pendingNext (effective : Pos) : State :=
  { running with sst := { running.sst with next := some { held := { held with serial := 4 }, effective := effective } } }

/-- The open part of section 4.9.1, with and without another open cause and a closed end. -/
theorem witness_OpenCausesChange :
    (blind.cov.causeState .lane).part = some { start := 6000120, carrier := 0 } ∧
      (blind.cov.list.find? fun x => decide (x.order = 0)).isSome = true ∧
      (Cause.lane.bit &&& ~~~Cause.lane.bit : CauseSet) = 0 ∧
      ((Cause.lane.bit ||| Cause.width.bit) &&& ~~~Cause.lane.bit : CauseSet) ≠ 0 ∧
      passedCutter blind (-150000) = true ∧ passedCutter blind (-149999) = false ∧
      (0 : TrackSet) = 0 ∧ (0b0010#4 : TrackSet) ≠ 0 ∧ blind.cov.list.length < 32 ∧ ¬ fullCoverage.cov.list.length < 32 := by
  decide

/-- A change in HALTED, one that changes nothing and one that does; one that lands at the start of the open part and one
behind it; and one before a boundary passed under a held Next. -/
theorem witness_OpenCausesChange_given :
    let s := { running with cov := blind.cov }
    let b := { pendingNext 1060200 with cov := { Coverage.reset with boundary := some 1060200 } }
    blind.sst.run = .halted ∧ running.sst.run ≠ .halted ∧ formSet s (.width 0) (closedPosition s) = s.cov.width.tracks ∧
      formSet running (.width 1) (closedPosition running) ≠ running.cov.width.tracks ∧ boundaryAhead running = none ∧
      (s.cov.causeState .lane).part = some { start := 6000120, carrier := 0 } ∧ closedPosition s ≤ 6000120 ∧
      ¬ (6000121 : Pos) ≤ 6000120 ∧ (b.cov.causeState .lane).part = none ∧ b.sst.next.isSome = true ∧
      b.cov.boundary = some 1060200 ∧ closedPosition b < 1060200 ∧ s.cov.list.length ≤ 30 ∧ s.sst.next = none ∧
      passedCutter s 6000121 = false ∧ boundaryAhead b = none ∧ boundaryAhead (pendingNext 1060181) = some 1060181 ∧
      closedPosition (pendingNext 1060181) < 1060181 := by decide

theorem witness_BoundaryIsPassed :
    running.cov.Sound ∧ (pendingNext 1060180).sst.current = some held ∧ (pendingNext 1060180).sst.run ≠ .halted ∧
      (pendingNext 1060180).cov.boundary = none ∧ (1060180 : Pos) ≤ closedPosition (pendingNext 1060180) ∧
      closedPosition (pendingNext 1060181) < 1060181 ∧ blind.sst.run = .halted ∧ running.cov.list.length ≤ 30 ∧
      passedCutter running 910181 = false ∧ (1000 : Pos) < 1500 ∧ (1500 : Pos) < 2000 ∧
      ¬ ((1000 : Pos) < 1000 ∧ (1000 : Pos) < 2000) ∧ (setAt running (closedPosition running)).isSome = true ∧
      running.cov.list = [] := by
  exact ⟨⟨by decide, by decide, List.Pairwise.nil, by decide⟩, rfl, by decide, rfl, by decide, by decide, rfl, by decide,
    by decide, by decide, by decide, by decide, by decide, rfl⟩

/-! ### Grading and planning -/

theorem witness_MemberPoints :
    row2.base ≤ row2.peak ∧ row2.peak ≤ 4095 ∧ 4 < row2.ignoreSize ∧ row2.ignoreSize ≤ 5 ∧
      5 < row2.ignoreSize + row2.range ∧ 28 < row2.ignoreSize + row2.range ∧ row2.ignoreSize + row2.range ≤ 29 ∧
      0 < row2.range ∧ { row2 with rampCode := 0 }.range = 0 ∧ row5.edgeWeight = 16 ∧
      { row2 with edgeWeight := 0 }.edgeWeight = 0 ∧ product.pointsA ≤ product.pointsB ∧
      product.pointsB ≤ product.pointsC ∧ product.pointsC < 65535 ∧
      inEdgeZone 500 { xLo := 300, xHi := 16350, yStart := 100000, yEnd := 160000 } flaw1 = false ∧
      inEdgeZone 500 { xLo := 300, xHi := 16350, yStart := 130005, yEnd := 160000 } flaw1 = true := by decide

theorem witness_FinalGradeAndCauses :
    Grade.a.rank ≤ 3 ∧ Grade.c.rank ≤ 3 ∧
      (gradePlate running product 1 { lo := 0, hi := 900 } 1000000 1060000).grade.rank ≤ 3 := by decide

/-- The view of the step of section 6.11.1. -/
def view : PlanView :=
  { settings := line, set := product, frontier := 1000000, closed := 1060180, limit := 930180, boundary := none,
    book := currentBook running }

theorem witness_CandidatesAndCulletEnds :
    planView running = some view ∧ ((candidates running view).map fun c => (c.index, c.score)) = [(1, 20), (2, 8)] ∧
      (candidates running view).Pairwise fun x y => x.index < y.index := by
  exact ⟨rfl, by decide, by decide⟩

theorem witness_CandidatesAndCulletEnds_ends :
    view.settings.culletMin ≤ view.settings.culletMax ∧ (3000 : Int) ≤ (1003000 : Pos) - view.frontier ∧
      (1012000 : Pos) - view.frontier ≤ view.settings.culletMax ∧ (12000 : Int) < (1012001 : Pos) - view.frontier ∧
      (1002999 : Pos) - view.frontier < view.settings.culletMin ∧
      ({ view with boundary := some 1002999 } : PlanView).eligible = [] := by decide

/-- A CULLET segment. -/
def segment (n : Nat) (st : SegmentState) : Segment :=
  { number := BitVec.ofNat 32 n, kind := .cullet .forced, yStart := 1060000, yEnd := 1079501, setNumber := 7, late := false,
    lateness := 0, state := st }
/-- RUNOUT with a full queue, urgent: F = 3,400,000 and the commit limit at 3,419,500 (section 6.8). -/
def runningOut : State :=
  { running with
    rtk := { running.rtk with gantry := 3549500#48 }
    cpl := { running.cpl with state := .runout, frontier := some 3400000,
                              queue := (List.range 24).map fun n => segment (n + 1) .cut } }

theorem witness_PlanStepPlans :
    planView running = some view ∧ stepCondition running = true ∧ running.cpl.amendments = [] ∧ running.sst.next = none ∧
      running.out.cuts ≠ [] ∧ running.cpl.state = .planning ∧ running.cpl.queue.length < 24 ∧
      stepCondition State.reset = false := by
  exact ⟨rfl, by decide, rfl, rfl, by decide, rfl, by decide, by decide⟩
theorem witness_PlanStepPlans_runout :
    (planView runningOut).isSome = true ∧ stepCondition runningOut = true ∧ runningOut.cpl.amendments = [] ∧
      runningOut.sst.next = none ∧ runningOut.out.cuts ≠ [] ∧ runningOut.cpl.state = .runout ∧
      24 ≤ runningOut.cpl.queue.length := by
  exact ⟨by decide, by decide, rfl, rfl, by decide, rfl, by decide⟩

/-- A step due in the given state with its frontier at f, taken with no amendment and no Next reached. -/
def dueAt (f : Pos) (st : PlannerState) (queue : List Segment) : State :=
  { running with cpl := { running.cpl with state := st, frontier := some f, queue := queue } }

/-- 24 segments. -/
def fullQueue : List Segment := runningOut.cpl.queue

/-- A step in progress that has its grading requests yet to take, one with none left, and one that makes a runout cut. -/
def stepping (runout : Bool) (requests : List GradingRequest) : State :=
  { running with
    cpl := { running.cpl with step := some { view := view, runout := runout, requests := requests, results := [] } } }

/-- Not due; due from PLANNING and RUNOUT with a full queue and urgent; an empty Cut List, its cut firing and not; and a
step that its amendments leave nothing to do for. -/
theorem witness_PlanStepPlans_forms :
    planDue State.reset = false ∧
      (let s := dueAt 910680 .planning fullQueue
       stepCondition s = true ∧ (planView s).map PlanView.urgent = some true ∧ 24 ≤ s.cpl.queue.length ∧
         s.out.cuts.length < 32) ∧
      (let s := { dueAt 1000000 .planning [] with out := Outputs.reset }
       stepCondition s = true ∧ s.out.cuts = [] ∧ s.out.strobe.phase = .ready ∧ s.cpl.queue.length < 24 ∧
         (∀ x ∈ s.cpl.queue, x.number ≠ s.cpl.serial) ∧
         atFirePoint s { position := 1060000, owner := some 57, due := false, deferred := false } = false ∧
         atFirePoint s { position := 910180, owner := some 57, due := false, deferred := false } = true) ∧
      (planView (dueAt 910681 .planning fullQueue)).map PlanView.urgent = some false := by decide

/-- Pending amendments, in increasing line index, one for line 2; and a Next that the frontier has reached. -/
theorem witness_PlanStepPlans_amended :
    let a : Amendment := { edit := 5, line := 2, quantity := some 10 }
    let s := { running with cpl := { running.cpl with amendments := [a] } }
    s.sst.current = some held ∧ (s.cpl.amendments.Pairwise fun x y => x.line < y.line) ∧
      s.cpl.amendments.getLast? = some a ∧ (held.book[1]?).isSome = true ∧ stepCondition s = true ∧ s.sst.next = none ∧
      (pendingNext 1000000).cpl.frontier = some 1000000 ∧ (1000000 : Pos) ≤ 1000000 ∧ ¬ (1000001 : Pos) ≤ 1000000 ∧
      (planView (takeNextAt (applyPending (pendingNext 1000000)))).isSome = true := by
  exact ⟨rfl, by decide, rfl, rfl, by decide, rfl, rfl, by decide, by decide, by decide⟩

/-- Steps in progress, planning 60,000 rs and a cullet: entered, and abandoned once the commit limit has reached their
end. -/
theorem witness_PlanStepInParts :
    planDue (stepping false []) = true ∧ (stepping false []).cpl.step.isSome = true ∧ running.cpl.step = none ∧
      planDue running = true ∧ view.gradingRequests ≠ [] ∧ commitLimit (stepping false view.gradingRequests) = some 930180 ∧
      decisionEnd (stepping false view.gradingRequests) view (decideSegment view (candidates running view)) = 1060000 ∧
      (930180 : Pos) < 1060000 ∧ (930180 : Pos) < max (1000000 + 12000) (930180 + 1) ∧
      commitLimit { stepping true [] with rtk := { running.rtk with gantry := 1142000 } } = some 1012000 ∧
      max (view.frontier + view.settings.culletMax) (view.limit + 1) = 1012000 ∧ goesOn .forwardStep (stepping true []) ∧
      commitLimit { stepping false [] with rtk := { running.rtk with gantry := 1190000 } } = some 1060000 := by
  exact ⟨by decide, rfl, rfl, by decide, by decide, by decide, by decide, by decide, by decide, by decide, by decide,
    ⟨_, rfl⟩, by decide⟩

theorem witness_RunoutBeginsAndEnds :
    running.cpl.state = .planning ∧ runningOut.cpl.state = .runout ∧ runningOut.cpl.state ≠ .planning ∧
      running.cpl.state ≠ .runout ∧ running.cpl.amendments = [] ∧
      view.settings.urgencyMargin ≤ view.settings.culletMin ∧
      { view with frontier := 1012000, limit := 1012000, boundary := some 1012001 }.urgent = true := by decide

/-- A plate journal with no room left. -/
def plateFull : State :=
  { runningOut with xch := { runningOut.xch with plate := { runningOut.xch.plate with writeCount := 16 } } }

theorem witness_SegmentIsReported :
    (finishStep runningOut).cpl.queue.head? = some (segment 1 .cut) ∧ (segment 1 .cut).state = .cut ∧
      runningOut.cpl.step = none ∧
      (finishStep runningOut).xch.plate.roomFor (segmentRecords (segment 1 .cut)).length = true ∧
      (finishStep plateFull).xch.plate.roomFor (segmentRecords (segment 1 .cut)).length = false ∧
      (finishStep running).cpl.queue.head? = none ∧ (segment 1 .planned).state ≠ .cut := by decide

theorem witness_AmendmentsAreTaken :
    loaded.sst.current = some held ∧ held.set.number = 7 ∧ 1 ≤ held.book.length ∧ held.book.length = 2 ∧
      loaded.cpl.state = .idle ∧ running.cpl.state = .planning ∧ runningOut.cpl.state = .runout ∧
      held.set.number ≠ 8 ∧ held.book.length < 3 ∧ loaded.xch.notice.roomFor 1 = true := by
  exact ⟨rfl, rfl, by decide, by decide, rfl, rfl, rfl, by decide, by decide, by decide⟩

/-! ### The outputs -/

/-- A strobe in a phase that ends in 100 µs, and nozzle 1 likewise. -/
def strobing (phase : StrobePhase) (cuts : List Cut) : State :=
  { placed with out := { Outputs.reset with
      cuts := cuts, strobe := { phase := phase, high := decide (phase = .pulse), ends := 100 },
      nozzles := Outputs.reset.nozzles.set 0 { busy := true, high := true, ends := 100 } } }

/-- A cut that waits for the strobe. -/
def dueCut : Cut := { position := -150500, owner := some 91, due := true, deferred := true }

theorem witness_PulsesEnd :
    (strobing .pulse []).sst.settings = some line ∧ (strobing .pulse []).out.strobe.phase = .pulse ∧
      waitFor (strobing .pulse []).timeBase (strobing .pulse []).out.strobe.ends ≤ nextWait (strobing .pulse []) ∧
      (strobing .gap []).out.strobe.phase = .gap ∧ (strobing .gap []).out.cuts = [] ∧
      waitFor (strobing .gap []).timeBase (strobing .gap []).out.strobe.ends ≤ nextWait (strobing .gap []) ∧
      (strobing .gap []).out.nozzles[0].busy = true ∧
      waitFor (strobing .gap []).timeBase (strobing .gap []).out.nozzles[0].ends ≤ nextWait (strobing .gap []) ∧
      (1 : Fin 4) ≠ 0 := by
  exact ⟨rfl, rfl, by decide, rfl, rfl, by decide, by decide, by decide, by decide⟩

theorem witness_PulsesEnd_due :
    (strobing .gap [dueCut]).sst.settings = some line ∧ (strobing .gap [dueCut]).out.strobe.phase = .gap ∧
      (strobing .gap [dueCut]).out.cuts = dueCut :: [] ∧ dueCut.due = true ∧
      waitFor (strobing .gap [dueCut]).timeBase (strobing .gap [dueCut]).out.strobe.ends ≤
        nextWait (strobing .gap [dueCut]) := by
  exact ⟨rfl, rfl, rfl, rfl, by decide⟩

/-- A gap end whose head cut is not due: a step short of its fire point, and at it. -/
theorem witness_PulsesEnd_listed :
    let cut (y : Pos) : Cut := { position := y, owner := some 91, due := false, deferred := false }
    let s := strobing .gap [cut (-149999)]
    s.out.cuts.head? = some (cut (-149999)) ∧ atFirePoint s (cut (-149999)) = false ∧
      atFirePoint (strobing .gap [cut (-150000)]) (cut (-150000)) = true ∧
      waitFor s.timeBase s.out.strobe.ends ≤ nextWait s := by decide

/-- Section 7.2.1: a cut due 500 rs past its fire point fires late, with a lateness of 500. -/
theorem test_lateness : latenessOf (strobing .gap [dueCut]) dueCut = 500 := by decide

theorem witness_MarksAreOffered :
    markOutcome placed 0b0001#4 (-9999) = .planned ∧ markOutcome placed 0b0001#4 (-10000) = .late ∧
      markOutcome placed 0 (-9999) = .trim ∧
      markOutcome { placed with out := { placed.out with hold := true } } 0b0001#4 (-9999) = .hold ∧
      markOutcome { placed with out := { placed.out with marks := List.replicate 64 { flaw := 1, nozzles := 1, yStart := 0 } } }
        0b0001#4 (-9999) = .full ∧ placed.out.marks.Pairwise (fun a b => a.yStart ≤ b.yStart) := by
  decide

/-- Two marks of nozzles 1 and 2, the first at its fire point and the second a step short of it. -/
def marking : State :=
  { placed with
    rtk := { placed.rtk with gate := gateAtEnd }
    out := { Outputs.reset with marks := [{ flaw := 7, nozzles := 0b0011#4, yStart := -10000 },
                                          { flaw := 8, nozzles := 0b0010#4, yStart := -9754 }] } }

theorem witness_MarksFire :
    marking.sst.settings = some line ∧ ((marking.out.marks.takeWhile fun m => markDue marking m.yStart).map MarkEntry.flaw) = [7] ∧
      (0b0011#4 : TrackSet).getLsbD 1 = true ∧ (0b0011#4 : TrackSet).getLsbD 2 = false ∧ gateEndDue marking = true ∧
      goesOn .gatePhaseEnd marking := by
  exact ⟨rfl, by decide, by decide, by decide, by decide, _, rfl⟩

/-- Section 1.3.3's lead of 245 rs: at the gate's end a mark 246 rs beyond the marker stays, and one 245 rs beyond fires. -/
theorem test_lead_fires :
    ((endGate marking).out.marks.map MarkEntry.flaw) = [8] ∧
      (endGate { marking with out := { marking.out with marks := [{ flaw := 9, nozzles := 1, yStart := -9755 }] } }).out.marks =
        [] := by decide

theorem witness_HoldCancelsMarks :
    marking.out.hold = false ∧ marking.out.marks ≠ [] ∧ placed.out.marks = [] ∧ marking.xch.notice.roomFor 1 = true ∧
      lined.xch.notice.roomFor 1 = false := by decide

/-! ### The Set Store -/

/-- A run that drains with no cut left. -/
def draining : State :=
  { running with sst := { running.sst with run := .draining, requested := false }
                 cpl := { running.cpl with state := .draining }, out := Outputs.reset }

theorem witness_RunStartsAndHalts_halts :
    draining.sst.run = .draining ∧ draining.out.cuts = [] ∧ draining.sst.waitingSettings = none ∧
      draining.sst.waitingSet = none ∧ draining.sst.requested = false ∧ running.sst.run ≠ .draining ∧
      running.out.cuts ≠ [] := by
  exact ⟨rfl, rfl, rfl, rfl, rfl, by decide, by decide⟩

theorem witness_RunStartsAndHalts_starts :
    loaded.sst.run = .halted ∧ loaded.sst.requested = true ∧ loaded.sst.settings = some line ∧
      loaded.sst.current.isSome = true ∧ loaded.out.cuts = [] ∧
      ((1060180 : Int) - line.cutterDistance <
        (1060180 : Int) - line.cutterDistance + line.commitDistance + line.headMargin - (cutterLead loaded : Nat)) ∧
      running.sst.run ≠ .halted ∧ State.reset.sst.requested = false ∧ State.reset.sst.settings = none ∧
      State.reset.sst.current = none := by
  exact ⟨rfl, rfl, rfl, by decide, rfl, by decide, by decide, rfl, rfl, rfl⟩

/-- The run section: in RUNNING with cuts listed and with none, in HALTED and in DRAINING. -/
theorem witness_RunStartsAndHalts_passed :
    running.sst.run = .running ∧ running.out.cuts ≠ [] ∧ { running with out := Outputs.reset }.out.cuts = [] ∧
      running.sst.waitingSettings = none ∧ running.sst.waitingSet = none ∧ loaded.sst.run = .halted ∧
      draining.sst.run ≠ .halted ∧ draining.sst.run ≠ .running := by decide

/-- The line settings image of `line` at offset 2000 hexadecimal, field by field of section 11.4. -/
def settingsImage : List Byte :=
  layout 256
    [(0x00, [1, 1] ++ le 2 1024 ++ le 2 0), (0x08, [1, 0xFF] ++ le 2 1024 ++ le 2 960), (0x60, [0, 1, 2, 0, 4]),
     (0x68, le 4 1000 ++ le 4 5000 ++ le 4 4096 ++ le 4 40 ++ le 4 8 ++ [0, 0, 1, 0]),
     (0x80, le 2 16 ++ le 2 0 ++ le 2 0 ++ le 2 0 ++ le 2 2000 ++ le 2 1250 ++ le 2 10),
     (0x90, le 4 10000 ++ le 4 150000 ++ le 4 20000 ++ le 2 120 ++ le 2 35 ++ le 2 100 ++ le 2 400 ++ le 2 60 ++ le 2 5),
     (0xA8, le 4 100 ++ le 4 3000 ++ le 4 3000 ++ le 4 12000 ++ le 4 200), (0xC0, le 4 0x10000 ++ le 4 16 ++ le 4 16),
     (0xD0, le 4 0x20000 ++ le 4 16 ++ le 4 16), (0xE0, le 4 0x30000 ++ le 4 16 ++ le 4 16)]

/-- The exchange memory that holds it. -/
def settingsMemory : ExchangeMemory := { generation := 0, cells := listed 0x2000 settingsImage }

/-- The image reads back as `line`: the distances, the lanes and the journals, each at its offset of section 11.4. -/
theorem test_settings_image :
    let l := (readSettings settingsMemory 0x2000).value
    l.cutterDistance = 150000 ∧ l.markerDelay = 35 ∧ l.culletMax = 12000 ∧ l.gateLength = 2000 ∧ l.slipLimit = 10 ∧
      l.lanes[1] = line.lanes[1] ∧ l.noticePlace = place 0x30000 := by decide

theorem witness_SettingsAreTaken :
    running.sst.run ≠ .halted ∧ placed.sst.run = .halted ∧ imagePlaced 0x2000 256 = true ∧
      imagePlaced 0x10000000 256 = false ∧ checkSettings (readSettings settingsMemory 0x2000).value = none ∧
      checkSettings { line with urgencyMargin := 3500 } ≠ none ∧ placed.xch.notice.roomFor 1 = true ∧
      line.lanes[0].fitted = true ∧ line.lanes[2].fitted = false ∧ ((withLane placed .live).lane 0).state ≠ .off := by decide

theorem witness_AcceptedImagesAreSound_settings : checkSettings (readSettings settingsMemory 0x2000).value = none := by decide

/-- A product set image at offset 2000 hexadecimal: set 7 with two tracks, one rule and two order lines (section 11.5). -/
def setImage : List Byte :=
  layout 848
    [(0x00, le 4 848 ++ le 4 7), (0x11, [2, 1, 2, 4, 5, 4, 8]), (0x1C, le 2 6000), (0x30, le 2 100 ++ le 2 250 ++ le 2 600),
     (0x38, le 2 20 ++ le 2 20 ++ le 2 20 ++ le 2 20 ++ le 2 20 ++ le 2 20),
     (0x48, le 4 0 ++ le 4 900 ++ le 4 900 ++ le 4 1984), (0xD0, [3, 1, 0, 1] ++ le 2 4 ++ le 2 400),
     (0x1F0, le 2 5 ++ [3, 2] ++ le 2 4 ++ le 2 40 ++ le 2 80 ++ [24, 3, 6, 12]),
     (0x2D0, le 4 60000 ++ [1, 10] ++ le 2 40), (0x2D8, le 4 22500 ++ [2, 4] ++ le 2 65535)]

/-- The exchange memory that holds it. -/
def setMemory : ExchangeMemory := { generation := 0, cells := listed 0x2000 setImage }

/-- The image's class 2 row is section 5.8's, with the mark flag; its second line is unlimited. -/
theorem test_set_image :
    let p := (readSet setMemory 0x2000).set
    p.number = 7 ∧ p.rows[2] = { row2 with mark := true } ∧ p.orders = product.orders ∧ p.tracks = product.tracks := by
  decide

theorem witness_AcceptedImagesAreSound_set :
    checkSet line (readSet setMemory 0x2000) = none ∧ setPlaced setMemory 0x2000 = true := by decide

theorem witness_SetsAreAcceptedAndTaken_next :
    let s : State :=
      { running with sst := { running.sst with next := some { held := { held with serial := 4 }, effective := 1500000 } } }
    s.sst.current = some held ∧ s.sst.next.map NextSet.effective = some 1500000 ∧ s.sst.waitingSet = none ∧
      running.sst.next = none ∧ State.reset.sst.current = none := by
  exact ⟨rfl, rfl, rfl, rfl, rfl⟩

/-- The set section: without settings, while Next is held, and acted on, its image accepted and refused. -/
theorem witness_SetsAreAcceptedAndTaken_passed :
    State.reset.sst.settings = none ∧ loaded.sst.settings = some line ∧ (pendingNext 0).sst.next.isSome = true ∧
      loaded.sst.next = none ∧ setPlaced setMemory 0x2000 = true ∧ checkSet line (readSet setMemory 0x2000) = none ∧
      setPlaced setMemory 0x10000000 = false ∧ loaded.xch.notice.roomFor 1 = true := by
  exact ⟨rfl, rfl, rfl, rfl, by decide, by decide, by decide, by decide⟩

/-- An acceptance: with no Current set, halted with and without a run requested; with one, halted and in a run, given at
the closed position and beyond it. -/
theorem witness_SetsAreAcceptedAndTaken_accepted :
    placed.sst.current = none ∧ placed.sst.requested = false ∧
      { placed.sst with requested := true }.requested = true ∧ placed.sst.settings.isSome = true ∧
      loaded.sst.current.isSome = true ∧ loaded.sst.run = .halted ∧ running.sst.run ≠ .halted ∧
      running.cov.boundary = none ∧ ((1060180 : Nat) : Pos) ≤ closedPosition running ∧
      closedPosition running < ((1060181 : Nat) : Pos) := by decide

/-! ### The exchange memory and the invariants -/

/-- A Request Block whose flaw read count is the given one. -/
def reading (n : Nat) : State := { placed with mem := { generation := 0, cells := listed 0x4 (le 4 n) } }

theorem witness_JournalsTakeAndWrite_read :
    requestReadCount (reading 0).mem .flaw = ((reading 0).xch.journal .flaw).lastRead ∧
      requestReadCount (reading 1).mem .flaw ≠ ((reading 1).xch.journal .flaw).lastRead ∧
      (((reading 1).xch.journal .flaw).writeCount - 1).toNat > 16 ∧
      ((reading 4294967280).xch.journal .flaw).place = some line.flawPlace ∧
      (((reading 4294967280).xch.journal .flaw).writeCount - 4294967280).toNat ≤ line.flawPlace.capacity ∧
      (State.reset.xch.journal .flaw).place = none := by decide

theorem witness_JournalsTakeAndWrite_records :
    placed.mem.wf = true ∧ (placed.xch.journal .flaw).place = some line.flawPlace ∧ 0 < line.flawPlace.capacity ∧
      Config.fixedEnd ≤ line.flawPlace.base ∧
      line.flawPlace.base + line.flawPlace.capacity * JournalId.flaw.recordSize ≤ Config.windowSize ∧
      (List.replicate 64 (0 : Byte)).length = JournalId.flaw.recordSize ∧
      ((placed.xch.journal .flaw).writeCount + 1 - (placed.xch.journal .flaw).readCopy).toNat < line.flawPlace.level ∧
      line.flawPlace.level ≤ ((15 : BitVec 32) + 1 - 0).toNat ∧ lined.xch.notice.roomFor 1 = false := by decide

theorem witness_OnlyItsOwnBytes :
    goesOn .forwardStep lined ∧ Instr.forwardStep ≠ .powerOn ∧ ¬ lined.owns 0x2000 ∧
      ∀ w ∈ Instr.forwardStep.written, w.1 ≠ 0x2000 := by
  refine ⟨⟨_, rfl⟩, by decide, ?_, by decide⟩
  rintro (h | ⟨id, p, h, _⟩)
  · revert h; decide
  · cases id <;> simp [lined, State.reset, Exchange.reset, Exchange.journal, Journal.reset] at h

theorem runningFollows : PlannerFollows running := by
  refine ⟨by decide, by decide, ⟨by decide, ?_⟩, ?_, ?_, ⟨by decide, by decide, by decide, by decide⟩⟩
  · intro f hf c hc
    simp only [running, Option.some.injEq] at hf
    simp only [running, List.mem_singleton] at hc
    subst hf hc
    decide
  · intro p hp
    exact absurd (show running.cpl.step = none from rfl) (by rw [hp]; simp)
  · intro l hl
    have : l = line := (Option.some.inj hl).symm
    subst this
    decide

/-- MemoryAndJournalsStaySound, BlocksStaySound and PlannerFollowsTheRun: a run in progress has every invariant. -/
theorem witness_Invariants :
    running.mem.wf = true ∧ (∀ id, (running.xch.journal id).bounded) ∧ running.fas.Sound ∧ running.cov.Sound ∧
      running.out.Sound ∧ running.cpl.serial ≠ 0 ∧ running.sst.serial ≠ 0 ∧ PlannerFollows running ∧
      ∃ t, StepsTo running t := by
  refine ⟨rfl, fun id => ?_, ⟨by decide, by decide⟩, ⟨by decide, by decide, List.Pairwise.nil, by decide⟩,
    ⟨by decide, by decide, by decide⟩, by decide, by decide, runningFollows, _, rfl⟩
  cases id <;>
    · intro p h
      simp only [running, loaded, placed, lined, Exchange.journal, line, place, Option.some.injEq] at h
      subst h
      decide

end Sys2Proof.Tests
end

