-- ==== Sys2Proof/Proofs/FinalGrade.lean ====
section
/-! PROOFS. The final grade and the grade causes (R97, R98): the final grade is a fold of `Grade.worse` over the
judgements, each grade cause is one judgement's bit, and a plate graded A, B or C has no override. -/
namespace Sys2Proof.Machine

/-! ## The bits of a set written from a list -/

theorem testBit_bitsOf (bits : List Bool) (k : Nat) : (bitsOf bits).testBit k = bits.getD k false := by
  induction bits generalizing k with
  | nil => simp [bitsOf]
  | cons b rest ih =>
    have bit : bitsOf (b :: rest) = Nat.bit b (bitsOf rest) := by
      cases b <;> simp [bitsOf, Nat.bit_val, Nat.add_comm]
    cases k with
    | zero => simp [bit]
    | succ k => simp [bit, Nat.testBit_bit_succ, ih]

theorem getLsbD_ofNat_bitsOf {w : Nat} (bits : List Bool) (fits : bits.length ≤ w) (k : Nat) :
    (BitVec.ofNat w (bitsOf bits)).getLsbD k = bits.getD k false := by
  rw [BitVec.getLsbD_ofNat, testBit_bitsOf]
  by_cases inside : k < w
  · simp [inside]
  · simp [inside, List.getElem?_eq_none (show bits.length ≤ k by omega)]

/-! ## The worse of two grades and the worst of a list -/

theorem Grade.worse_eq_or (g h : Grade) : g.worse h = g ∨ g.worse h = h := by
  unfold Grade.worse
  split
  · exact .inr rfl
  · exact .inl rfl

theorem Grade.rank_worse (g h : Grade) : (g.worse h).rank = max g.rank h.rank := by
  unfold Grade.worse
  split <;> omega

/-- A is the best grade: an override that does not apply, written A, changes nothing. -/
@[simp] theorem Grade.worse_a (g : Grade) : g.worse .a = g := by cases g <;> rfl

/-- A points grade or a counts grade, one of A, B, C and REJECT, is not a grade that coverage gives (R92, R94, R96). -/
theorem ne_coverageGrade_of_scored {g : Grade} (scored : g.rank ≤ 3 ∨ g = .reject) :
    g ≠ .unverified ∧ g ≠ .short := by
  constructor <;> rintro rfl <;> simp [Grade.rank] at scored

theorem foldl_worse_mem (g : Grade) (rest : List Grade) : rest.foldl Grade.worse g ∈ g :: rest := by
  induction rest generalizing g with
  | nil => simp
  | cons h rest ih =>
    rw [List.foldl_cons]
    rcases List.mem_cons.mp (ih (g.worse h)) with first | later
    · rw [first]
      rcases Grade.worse_eq_or g h with left | right
      · simp [left]
      · simp [right]
    · exact List.mem_cons_of_mem _ (List.mem_cons_of_mem _ later)

theorem rank_le_foldl_worse (g : Grade) (rest : List Grade) :
    ∀ x ∈ g :: rest, x.rank ≤ (rest.foldl Grade.worse g).rank := by
  induction rest generalizing g with
  | nil => simp
  | cons h rest ih =>
    have worse := ih (g.worse h) _ (List.mem_cons_self ..)
    rw [Grade.rank_worse] at worse
    intro x mem
    rcases List.mem_cons.mp mem with rfl | mem
    · exact (le_max_left ..).trans worse
    rcases List.mem_cons.mp mem with rfl | mem
    · exact (le_max_right ..).trans worse
    · exact ih (g.worse h) x (List.mem_cons_of_mem _ mem)

/-! ## The final grade (R95 to R97) -/

/-- The grades of the overrides that apply. -/
def overrides (absolute : Bool) (coverage : CoverageAnswer) : List Grade :=
  (if absolute = true then [.reject] else []) ++ (coverageGrade coverage).toList

section Judgements
variable (points counts : Grade) (absolute : Bool) (coverage : CoverageAnswer)

theorem finalGrade_eq_foldl :
    finalGrade points counts absolute coverage = (counts :: overrides absolute coverage).foldl Grade.worse points := by
  cases absolute <;> cases coverage <;> simp [finalGrade, overrides, coverageGrade]

theorem finalGrade_mem :
    finalGrade points counts absolute coverage ∈ points :: counts :: overrides absolute coverage := by
  rw [finalGrade_eq_foldl]
  exact foldl_worse_mem points _

theorem rank_le_finalGrade :
    ∀ g ∈ points :: counts :: overrides absolute coverage,
      g.rank ≤ (finalGrade points counts absolute coverage).rank := by
  rw [finalGrade_eq_foldl]
  exact rank_le_foldl_worse points _

theorem mem_overrides_iff (g : Grade) :
    g ∈ overrides absolute coverage ↔
      absolute = true ∧ g = .reject ∨ coverage = .blind ∧ g = .unverified ∨ coverage = .width ∧ g = .short := by
  cases absolute <;> cases coverage <;> simp [overrides, coverageGrade]

/-- Some judgement gave the final grade. -/
theorem finalGrade_cases :
    let final := finalGrade points counts absolute coverage
    points = final ∨ counts = final ∨ absolute = true ∧ final = .reject ∨
      coverage = .blind ∧ final = .unverified ∨ coverage = .width ∧ final = .short := by
  have mem := finalGrade_mem points counts absolute coverage
  rw [List.mem_cons, List.mem_cons, mem_overrides_iff] at mem
  rcases mem with given | given | given
  · exact .inl given.symm
  · exact .inr (.inl given.symm)
  · exact .inr (.inr given)

/-- A final grade of A, B or C leaves no room for an override, each of which is worse than C. -/
theorem no_override_of_finalGrade_le (good : (finalGrade points counts absolute coverage).rank ≤ 3) :
    absolute = false ∧ coverage = .clear := by
  have bound (g : Grade) (mem : g ∈ overrides absolute coverage) : g.rank ≤ 3 :=
    (rank_le_finalGrade points counts absolute coverage g
      (List.mem_cons_of_mem _ (List.mem_cons_of_mem _ mem))).trans good
  simp only [mem_overrides_iff] at bound
  constructor
  · cases absolute with
    | false => rfl
    | true => exact absurd (bound .reject (.inl ⟨rfl, rfl⟩)) (by decide)
  · cases coverage with
    | clear => rfl
    | blind => exact absurd (bound .unverified (.inr (.inl ⟨rfl, rfl⟩))) (by decide)
    | width => exact absurd (bound .short (.inr (.inr ⟨rfl, rfl⟩))) (by decide)

/-! ## The grade causes (R98) -/

theorem gradeCauses_getLsbD (k : Nat) :
    (gradeCauses points counts absolute coverage).getLsbD k =
      let final := finalGrade points counts absolute coverage
      [decide (points = final), decide (counts = final), absolute && decide (final = .reject),
        decide (coverage = .blind) && decide (final = .unverified), decide (coverage = .width)].getD k false :=
  getLsbD_ofNat_bitsOf _ (by simp) k

theorem gradeCauses_points :
    (gradeCauses points counts absolute coverage).getLsbD 0 = true ↔
      points = finalGrade points counts absolute coverage := by
  rw [gradeCauses_getLsbD]
  simp

theorem gradeCauses_counts :
    (gradeCauses points counts absolute coverage).getLsbD 1 = true ↔
      counts = finalGrade points counts absolute coverage := by
  rw [gradeCauses_getLsbD]
  simp

theorem gradeCauses_absolute :
    (gradeCauses points counts absolute coverage).getLsbD 2 = true ↔
      absolute = true ∧ finalGrade points counts absolute coverage = .reject := by
  rw [gradeCauses_getLsbD]
  simp

theorem gradeCauses_blind :
    (gradeCauses points counts absolute coverage).getLsbD 3 = true ↔
      coverage = .blind ∧ finalGrade points counts absolute coverage = .unverified := by
  rw [gradeCauses_getLsbD]
  simp

theorem gradeCauses_width :
    (gradeCauses points counts absolute coverage).getLsbD 4 = true ↔ coverage = .width := by
  rw [gradeCauses_getLsbD]
  simp

/-- The judgement that gave the final grade has its bit. -/
theorem gradeCauses_ne_zero : gradeCauses points counts absolute coverage ≠ 0 := by
  intro empty
  have clear (k : Nat) : (gradeCauses points counts absolute coverage).getLsbD k ≠ true := by simp [empty]
  rcases finalGrade_cases points counts absolute coverage with given | given | given | given | given
  · exact clear 0 ((gradeCauses_points ..).mpr given)
  · exact clear 1 ((gradeCauses_counts ..).mpr given)
  · exact clear 2 ((gradeCauses_absolute ..).mpr given)
  · exact clear 3 ((gradeCauses_blind ..).mpr given)
  · exact clear 4 ((gradeCauses_width ..).mpr given.1)

theorem given_by_grades_of_rank_le (good : (finalGrade points counts absolute coverage).rank ≤ 3) :
    points = finalGrade points counts absolute coverage ∨ counts = finalGrade points counts absolute coverage := by
  obtain ⟨noAbsolute, clear⟩ := no_override_of_finalGrade_le points counts absolute coverage good
  simpa [noAbsolute, clear] using finalGrade_cases points counts absolute coverage

theorem given_of_reject (rejected : finalGrade points counts absolute coverage = .reject) :
    points = finalGrade points counts absolute coverage ∨ counts = finalGrade points counts absolute coverage ∨
      absolute = true ∧ finalGrade points counts absolute coverage = .reject := by
  simpa [rejected] using finalGrade_cases points counts absolute coverage

/-- UNVERIFIED and SHORT come from the coverage alone. -/
theorem given_by_coverage (pointsGiven : points.rank ≤ 3 ∨ points = .reject)
    (countsGiven : counts.rank ≤ 3 ∨ counts = .reject) :
    (finalGrade points counts absolute coverage = .unverified → coverage = .blind) ∧
      (finalGrade points counts absolute coverage = .short → coverage = .width) := by
  obtain ⟨points_unverified, points_short⟩ := ne_coverageGrade_of_scored pointsGiven
  obtain ⟨counts_unverified, counts_short⟩ := ne_coverageGrade_of_scored countsGiven
  have given := finalGrade_cases points counts absolute coverage
  constructor <;> intro final
  · simpa [final, points_unverified, counts_unverified] using given
  · simpa [final, points_short, counts_short] using given

end Judgements

/-! ## What a clear coverage and no absolute override say of the glass (R82, R85, R95) -/

theorem Stretch.meets_eq_false_iff (e : Stretch) (a b : Pos) :
    e.meets a b = false ↔ (e.yStart < b → ∃ y, e.yEnd = some y ∧ y ≤ a) := by
  cases ended : e.yEnd <;> simp [Stretch.meets, ended]

theorem coverageQuery_eq_clear_iff (s : State) (t : Nat) (a b : Pos) :
    coverageQuery s t a b = .clear ↔
      ∀ e ∈ s.cov.list, e.tracks.getLsbD (t - 1) = true → e.meets a b = false := by
  have hits_nil : (s.cov.list.filter fun e => e.tracks.getLsbD (t - 1) && e.meets a b) = [] ↔
      ∀ e ∈ s.cov.list, e.tracks.getLsbD (t - 1) = true → e.meets a b = false := by
    simp [List.filter_eq_nil_iff]
  rw [← hits_nil]
  unfold coverageQuery
  generalize (s.cov.list.filter fun e => e.tracks.getLsbD (t - 1) && e.meets a b) = hits
  cases hits with
  | nil => simp
  | cons e rest => by_cases width : ((e :: rest).any fun x => x.causes.getLsbD Cause.width.index) <;> simp [width]

theorem mem_membersOf_iff (s : State) (r : Rectangle) (e : MapEntry) :
    e ∈ membersOf s r ↔ e ∈ s.fas.map ∧
      e.flaw.xMin < r.xHi ∧ r.xLo < e.flaw.xEnd ∧ e.flaw.yStart < r.yEnd ∧ r.yStart < e.flaw.yEnd := by
  simp [membersOf, Rectangle.holds, and_assoc]

theorem absoluteApplies_eq_false_iff (p : ProductSet) (members : List MapEntry) :
    absoluteApplies p members = false ↔
      ∀ e ∈ members, (p.row e.flaw.flawClass).absolute = 0 ∨ e.flaw.size < (p.row e.flaw.flawClass).absolute := by
  simp [absoluteApplies, or_iff_not_imp_left]

section Plate
variable {s : State} {p : ProductSet} {n : Nat} {track : Track} {a b : Pos}

theorem stretch_ends_before_of_gradePlate_le (good : (gradePlate s p n track a b).grade.rank ≤ 3) :
    ∀ e ∈ s.cov.list, e.tracks.getLsbD (n - 1) = true → e.yStart < b → ∃ y, e.yEnd = some y ∧ y ≤ a := by
  have clear : coverageQuery s n a b = .clear := (no_override_of_finalGrade_le _ _ _ _ good).2
  intro e mem onTrack
  exact (e.meets_eq_false_iff a b).mp ((coverageQuery_eq_clear_iff s n a b).mp clear e mem onTrack)

theorem member_below_absolute_of_gradePlate_le (good : (gradePlate s p n track a b).grade.rank ≤ 3) :
    ∀ e ∈ s.fas.map, e.flaw.xMin < track.hi → track.lo < e.flaw.xEnd → e.flaw.yStart < b → a < e.flaw.yEnd →
      (p.row e.flaw.flawClass).absolute = 0 ∨ e.flaw.size < (p.row e.flaw.flawClass).absolute := by
  let r : Rectangle := { xLo := track.lo, xHi := track.hi, yStart := a, yEnd := b }
  have noOverride : absoluteApplies p (membersOf s r) = false := (no_override_of_finalGrade_le _ _ _ _ good).1
  intro e mem xMin xEnd yStart yEnd
  exact (absoluteApplies_eq_false_iff p _).mp noOverride e
    ((mem_membersOf_iff s r e).mpr ⟨mem, xMin, xEnd, yStart, yEnd⟩)

end Plate

/-- Settles O41, from the fold over the judgements, the bit of each grade cause, and the absence of overrides on a plate
graded A, B or C. -/
theorem finalGradeAndCauses : Obligations.FinalGradeAndCauses := by
  refine ⟨fun points counts absolute coverage => ⟨finalGrade_mem .., rank_le_finalGrade _ _ _ _, fun hp hc => ?_⟩,
    rfl, rfl, rfl, rfl, rfl, rfl,
    fun _ _ _ _ _ _ good => ⟨stretch_ends_before_of_gradePlate_le good, member_below_absolute_of_gradePlate_le good⟩⟩
  obtain ⟨blind_of_unverified, width_of_short⟩ := given_by_coverage points counts absolute coverage hp hc
  refine ⟨gradeCauses_points .., gradeCauses_counts .., gradeCauses_absolute .., gradeCauses_blind ..,
    gradeCauses_width .., gradeCauses_ne_zero _ _ _ _, ?_, ?_, ?_, ?_⟩
  · simpa only [gradeCauses_points, gradeCauses_counts] using given_by_grades_of_rank_le points counts absolute coverage
  · simpa only [gradeCauses_points, gradeCauses_counts, gradeCauses_absolute] using
      given_of_reject points counts absolute coverage
  · exact fun final => (gradeCauses_blind ..).mpr ⟨blind_of_unverified final, final⟩
  · exact fun final => (gradeCauses_width ..).mpr (width_of_short final)

end Sys2Proof.Machine
end

