-- ==== Sys2Proof/Proofs/Classification.lean ====
section
/-! PROOFS. Classification (R59): what a class rule asks of a flaw, read bit by bit from its view sets, and the search
for the first rule that matches, which passes over the rules that do not. -/
namespace Sys2Proof.Machine

/-! ## Disjoint and included sets of bits -/

theorem and_eq_zero_iff_disjoint {w : Nat} (a b : BitVec w) :
    a &&& b = 0 ↔ ∀ n, a.getLsbD n = true → b.getLsbD n = false := by
  constructor
  · intro disjoint n inA
    have bit : (a &&& b).getLsbD n = false := by rw [disjoint]; exact BitVec.getLsbD_zero
    simpa [inA] using bit
  · intro disjoint
    refine BitVec.eq_of_getLsbD_eq fun n _ => ?_
    cases inA : a.getLsbD n with
    | false => simp [inA]
    | true => simp [disjoint n inA]

theorem and_not_eq_zero_iff_included {w : Nat} (a b : BitVec w) :
    a &&& ~~~b = 0 ↔ ∀ n, a.getLsbD n = true → b.getLsbD n = true := by
  rw [and_eq_zero_iff_disjoint]
  refine forall_congr' fun n => imp_congr_right fun inA => ?_
  have inRange : n < w := BitVec.lt_of_getLsbD inA
  simp [inRange]

/-! ## What a rule matches -/

theorem ClassRule.admits_iff (r : ClassRule) (f : Flaw) :
    r.admits f = true ↔
      (∀ n, r.required.getLsbD n = true → f.views.getLsbD n = true) ∧
      (∀ n, r.forbidden.getLsbD n = true → f.views.getLsbD n = false) ∧
      r.sizeMin ≤ f.size ∧ f.size ≤ r.sizeMax ∧ r.aspectMin ≤ f.aspect ∧ r.peakMin ≤ f.peak ∧
      (r.polarity = .any ∨ (r.polarity = .dark ∧ f.polarities.getLsbD 0 = true) ∨
        (r.polarity = .bright ∧ f.polarities.getLsbD 1 = true)) := by
  rw [← and_not_eq_zero_iff_included, ← and_eq_zero_iff_disjoint]
  cases polarity : r.polarity <;> simp [ClassRule.admits, polarity, and_assoc]

theorem ClassRule.admits_eq_false_of_sizeMax_lt {r : ClassRule} (empty : r.sizeMax < r.sizeMin) (f : Flaw) :
    r.admits f = false := by
  rw [← Bool.not_eq_true, ClassRule.admits_iff]
  rintro ⟨-, -, atLeast, atMost, -⟩
  omega

/-! ## The first rule that matches -/

@[simp] theorem classify_nil (f : Flaw) : classify [] f = 0 := rfl

theorem classify_cons_of_admits {r : ClassRule} {f : Flaw} (admitted : r.admits f = true) (rules : List ClassRule) :
    classify (r :: rules) f = r.flawClass := by
  simp [classify, admitted]

theorem classify_append_of_skipped {before : List ClassRule} {f : Flaw}
    (skipped : ∀ x ∈ before, x.admits f = false) (after : List ClassRule) :
    classify (before ++ after) f = classify after f := by
  have passed : (before.find? fun x => x.admits f) = none := by
    simpa [List.find?_eq_none] using skipped
  simp [classify, List.find?_append, passed]

/-- Settles O33, from what a rule asks of a flaw and from the search passing over the rules that do not match. -/
theorem firstRuleClassifies : Obligations.FirstRuleClassifies := by
  refine ⟨ClassRule.admits_iff, ?first, ?unsorted, fun _ f empty => ClassRule.admits_eq_false_of_sizeMax_lt empty f⟩
  case first =>
    intro before after r f skipped admitted
    rw [classify_append_of_skipped skipped, classify_cons_of_admits admitted]
  case unsorted =>
    intro rules f skipped
    simpa using classify_append_of_skipped skipped []

end Sys2Proof.Machine
end
